-- ==== Sys2Proof/Word.lean ====
section
/-! DEFINITION. The widths of the hardware: bytes, 16-bit words and addresses, 4-bit indices (00_scope.md R3). -/

namespace Sys2Proof

/-- An 8-bit value: a general register, a timer, a byte of memory, a display cell. -/
abbrev Byte := BitVec 8

/-- A 16-bit instruction word (30_encoding.md R60). -/
abbrev Word := BitVec 16

/-- A 16-bit register that holds an address: `I`, `pc`, an entry of the stack (10_state.md R14, R16, R17). -/
abbrev Addr := BitVec 16

/-- An index of one of 16 like things: a general register (fields X and Y of 30_encoding.md R62) or a key. -/
abbrev Idx := Fin 16

end Sys2Proof
end

