-- ==== Sys2Proof/Syntax.lean ====
section
/-! DEFINITION. The instruction set: one constructor for each of the 34 rows of the opcode map (30_encoding.md R64).
A constructor is named by the spec's name of the instruction, its pattern (30_encoding.md R67), with `op` before it. -/

namespace Sys2Proof

/-- The 34 instructions. The arguments are the fields of the pattern (30_encoding.md R62), in the pattern's order; 8XY6
and 8XYE keep the field Y, which their meaning ignores (30_encoding.md R66). -/
inductive Instr where
  | op00E0
  | op00EE
  | op1NNN (nnn : BitVec 12)
  | op2NNN (nnn : BitVec 12)
  | op3XKK (x : Idx) (kk : Byte)
  | op4XKK (x : Idx) (kk : Byte)
  | op5XY0 (x y : Idx)
  | op6XKK (x : Idx) (kk : Byte)
  | op7XKK (x : Idx) (kk : Byte)
  | op8XY0 (x y : Idx)
  | op8XY1 (x y : Idx)
  | op8XY2 (x y : Idx)
  | op8XY3 (x y : Idx)
  | op8XY4 (x y : Idx)
  | op8XY5 (x y : Idx)
  | op8XY6 (x y : Idx)
  | op8XY7 (x y : Idx)
  | op8XYE (x y : Idx)
  | op9XY0 (x y : Idx)
  | opANNN (nnn : BitVec 12)
  | opBNNN (nnn : BitVec 12)
  | opCXKK (x : Idx) (kk : Byte)
  | opDXYN (x y : Idx) (n : Fin 16)
  | opEX9E (x : Idx)
  | opEXA1 (x : Idx)
  | opFX07 (x : Idx)
  | opFX0A (x : Idx)
  | opFX15 (x : Idx)
  | opFX18 (x : Idx)
  | opFX1E (x : Idx)
  | opFX29 (x : Idx)
  | opFX33 (x : Idx)
  | opFX55 (x : Idx)
  | opFX65 (x : Idx)
deriving DecidableEq, Repr

end Sys2Proof
end

