-- ==== Sys2Proof/WellFormed.lean ====
section
/-! DEFINITION. The opcode map of 30_encoding.md R64 as data, and which words are well formed by it. The types of an
instruction's fields bound them, so every term of `Instr` is well formed (log 22); what can be ill formed is a word. -/

namespace Sys2Proof

/-- One row of the opcode map: its pattern, and the mask and match with which a word `w` selects it when
`w & mask = match` (30_encoding.md R64). -/
structure OpRow where
  pattern : String
  mask : Word
  fixed : Word
deriving DecidableEq, Repr

/-- A word selects a row (30_encoding.md R63, R64). -/
abbrev OpRow.selects (r : OpRow) (w : Word) : Prop := w &&& r.mask = r.fixed

/-- The row each instruction stands for. -/
def Instr.row : Instr → OpRow
  | .op00E0 => ⟨"00E0", 0xFFFF, 0x00E0⟩
  | .op00EE => ⟨"00EE", 0xFFFF, 0x00EE⟩
  | .op1NNN _ => ⟨"1NNN", 0xF000, 0x1000⟩
  | .op2NNN _ => ⟨"2NNN", 0xF000, 0x2000⟩
  | .op3XKK _ _ => ⟨"3XKK", 0xF000, 0x3000⟩
  | .op4XKK _ _ => ⟨"4XKK", 0xF000, 0x4000⟩
  | .op5XY0 _ _ => ⟨"5XY0", 0xF00F, 0x5000⟩
  | .op6XKK _ _ => ⟨"6XKK", 0xF000, 0x6000⟩
  | .op7XKK _ _ => ⟨"7XKK", 0xF000, 0x7000⟩
  | .op8XY0 _ _ => ⟨"8XY0", 0xF00F, 0x8000⟩
  | .op8XY1 _ _ => ⟨"8XY1", 0xF00F, 0x8001⟩
  | .op8XY2 _ _ => ⟨"8XY2", 0xF00F, 0x8002⟩
  | .op8XY3 _ _ => ⟨"8XY3", 0xF00F, 0x8003⟩
  | .op8XY4 _ _ => ⟨"8XY4", 0xF00F, 0x8004⟩
  | .op8XY5 _ _ => ⟨"8XY5", 0xF00F, 0x8005⟩
  | .op8XY6 _ _ => ⟨"8XY6", 0xF00F, 0x8006⟩
  | .op8XY7 _ _ => ⟨"8XY7", 0xF00F, 0x8007⟩
  | .op8XYE _ _ => ⟨"8XYE", 0xF00F, 0x800E⟩
  | .op9XY0 _ _ => ⟨"9XY0", 0xF00F, 0x9000⟩
  | .opANNN _ => ⟨"ANNN", 0xF000, 0xA000⟩
  | .opBNNN _ => ⟨"BNNN", 0xF000, 0xB000⟩
  | .opCXKK _ _ => ⟨"CXKK", 0xF000, 0xC000⟩
  | .opDXYN _ _ _ => ⟨"DXYN", 0xF000, 0xD000⟩
  | .opEX9E _ => ⟨"EX9E", 0xF0FF, 0xE09E⟩
  | .opEXA1 _ => ⟨"EXA1", 0xF0FF, 0xE0A1⟩
  | .opFX07 _ => ⟨"FX07", 0xF0FF, 0xF007⟩
  | .opFX0A _ => ⟨"FX0A", 0xF0FF, 0xF00A⟩
  | .opFX15 _ => ⟨"FX15", 0xF0FF, 0xF015⟩
  | .opFX18 _ => ⟨"FX18", 0xF0FF, 0xF018⟩
  | .opFX1E _ => ⟨"FX1E", 0xF0FF, 0xF01E⟩
  | .opFX29 _ => ⟨"FX29", 0xF0FF, 0xF029⟩
  | .opFX33 _ => ⟨"FX33", 0xF0FF, 0xF033⟩
  | .opFX55 _ => ⟨"FX55", 0xF0FF, 0xF055⟩
  | .opFX65 _ => ⟨"FX65", 0xF0FF, 0xF065⟩

/-- The opcode map: the rows in the order of 30_encoding.md R64, one of each instruction. -/
def opcodeMap : List OpRow :=
  [ Instr.op00E0, .op00EE, .op1NNN 0, .op2NNN 0, .op3XKK 0 0, .op4XKK 0 0, .op5XY0 0 0, .op6XKK 0 0, .op7XKK 0 0,
    .op8XY0 0 0, .op8XY1 0 0, .op8XY2 0 0, .op8XY3 0 0, .op8XY4 0 0, .op8XY5 0 0, .op8XY6 0 0, .op8XY7 0 0,
    .op8XYE 0 0, .op9XY0 0 0, .opANNN 0, .opBNNN 0, .opCXKK 0 0, .opDXYN 0 0 0, .opEX9E 0, .opEXA1 0, .opFX07 0,
    .opFX0A 0, .opFX15 0, .opFX18 0, .opFX1E 0, .opFX29 0, .opFX33 0, .opFX55 0, .opFX65 0 ].map Instr.row

/-- A word is well formed when it selects a row of the opcode map; the others are unrecognised (30_encoding.md R65). -/
def wellFormedWord (w : Word) : Bool := opcodeMap.any fun r => decide (r.selects w)

end Sys2Proof
end

