-- ==== Sys2Proof/Decode.lean ====
section
/-! DEFINITION. The decoder, by class and then by sub-opcode (30_encoding.md R63), total on every word and on every list
of bytes; and the encoder, written from the formats of 30_encoding.md R61. -/

namespace Sys2Proof

/-- The classes that hold unrecognised words (the table of 30_encoding.md R65). -/
inductive Unrecognised where
  /-- 0x0NNN other than 0x00E0 and 0x00EE -/
  | class0
  /-- 0x5XYn with n not 0 -/
  | class5
  /-- 0x8XYn with n in 8 to D, and F -/
  | class8
  /-- 0x9XYn with n not 0 -/
  | class9
  /-- 0xEXkk with kk not 9E and not A1 -/
  | classE
  /-- 0xFXkk with kk none of the nine low bytes of class F -/
  | classF
deriving DecidableEq, Repr

/-- Why a list of bytes does not decode. -/
inductive Reject where
  /-- the first word selects no row of the opcode map -/
  | unrecognised (c : Unrecognised)
  /-- fewer than the two bytes of an instruction (30_encoding.md R60); the fetch always has two -/
  | truncated
deriving DecidableEq, Repr

/-! The fields of an instruction word (30_encoding.md R62). -/

/-- class, bits 15 to 12 -/
def fieldClass (w : Word) : Fin 16 := (w.extractLsb' 12 4).toFin
/-- X, bits 11 to 8 -/
def fieldX (w : Word) : Idx := (w.extractLsb' 8 4).toFin
/-- Y, bits 7 to 4 -/
def fieldY (w : Word) : Idx := (w.extractLsb' 4 4).toFin
/-- N, bits 3 to 0 -/
def fieldN (w : Word) : Fin 16 := (w.extractLsb' 0 4).toFin
/-- KK, bits 7 to 0 -/
def fieldKK (w : Word) : Byte := w.extractLsb' 0 8
/-- NNN, bits 11 to 0 -/
def fieldNNN (w : Word) : BitVec 12 := w.extractLsb' 0 12

/-- Class 0x0: the whole word selects. -/
def decodeClass0 (w : Word) : Except Unrecognised Instr :=
  if w = 0x00E0 then .ok .op00E0
  else if w = 0x00EE then .ok .op00EE
  else .error .class0

/-- Class 0x5: N = 0 selects. -/
def decodeClass5 (w : Word) : Except Unrecognised Instr :=
  if fieldN w = 0 then .ok (.op5XY0 (fieldX w) (fieldY w)) else .error .class5

/-- Class 0x8: N selects. -/
def decodeClass8 (w : Word) : Except Unrecognised Instr :=
  if fieldN w = 0x0 then .ok (.op8XY0 (fieldX w) (fieldY w))
  else if fieldN w = 0x1 then .ok (.op8XY1 (fieldX w) (fieldY w))
  else if fieldN w = 0x2 then .ok (.op8XY2 (fieldX w) (fieldY w))
  else if fieldN w = 0x3 then .ok (.op8XY3 (fieldX w) (fieldY w))
  else if fieldN w = 0x4 then .ok (.op8XY4 (fieldX w) (fieldY w))
  else if fieldN w = 0x5 then .ok (.op8XY5 (fieldX w) (fieldY w))
  else if fieldN w = 0x6 then .ok (.op8XY6 (fieldX w) (fieldY w))
  else if fieldN w = 0x7 then .ok (.op8XY7 (fieldX w) (fieldY w))
  else if fieldN w = 0xE then .ok (.op8XYE (fieldX w) (fieldY w))
  else .error .class8

/-- Class 0x9: N = 0 selects. -/
def decodeClass9 (w : Word) : Except Unrecognised Instr :=
  if fieldN w = 0 then .ok (.op9XY0 (fieldX w) (fieldY w)) else .error .class9

/-- Class 0xE: the low byte selects. -/
def decodeClassE (w : Word) : Except Unrecognised Instr :=
  if fieldKK w = 0x9E then .ok (.opEX9E (fieldX w))
  else if fieldKK w = 0xA1 then .ok (.opEXA1 (fieldX w))
  else .error .classE

/-- Class 0xF: the low byte selects. -/
def decodeClassF (w : Word) : Except Unrecognised Instr :=
  if fieldKK w = 0x07 then .ok (.opFX07 (fieldX w))
  else if fieldKK w = 0x0A then .ok (.opFX0A (fieldX w))
  else if fieldKK w = 0x15 then .ok (.opFX15 (fieldX w))
  else if fieldKK w = 0x18 then .ok (.opFX18 (fieldX w))
  else if fieldKK w = 0x1E then .ok (.opFX1E (fieldX w))
  else if fieldKK w = 0x29 then .ok (.opFX29 (fieldX w))
  else if fieldKK w = 0x33 then .ok (.opFX33 (fieldX w))
  else if fieldKK w = 0x55 then .ok (.opFX55 (fieldX w))
  else if fieldKK w = 0x65 then .ok (.opFX65 (fieldX w))
  else .error .classF

/-- The decoder: every word selects one instruction or is unrecognised (30_encoding.md R63, R65; 40_step_cycle.md R83). -/
def decodeWord (w : Word) : Except Unrecognised Instr :=
  if fieldClass w = 0x0 then decodeClass0 w
  else if fieldClass w = 0x1 then .ok (.op1NNN (fieldNNN w))
  else if fieldClass w = 0x2 then .ok (.op2NNN (fieldNNN w))
  else if fieldClass w = 0x3 then .ok (.op3XKK (fieldX w) (fieldKK w))
  else if fieldClass w = 0x4 then .ok (.op4XKK (fieldX w) (fieldKK w))
  else if fieldClass w = 0x5 then decodeClass5 w
  else if fieldClass w = 0x6 then .ok (.op6XKK (fieldX w) (fieldKK w))
  else if fieldClass w = 0x7 then .ok (.op7XKK (fieldX w) (fieldKK w))
  else if fieldClass w = 0x8 then decodeClass8 w
  else if fieldClass w = 0x9 then decodeClass9 w
  else if fieldClass w = 0xA then .ok (.opANNN (fieldNNN w))
  else if fieldClass w = 0xB then .ok (.opBNNN (fieldNNN w))
  else if fieldClass w = 0xC then .ok (.opCXKK (fieldX w) (fieldKK w))
  else if fieldClass w = 0xD then .ok (.opDXYN (fieldX w) (fieldY w) (fieldN w))
  else if fieldClass w = 0xE then decodeClassE w
  else decodeClassF w -- 0xF, the only class left

/-- Two bytes as a word, the first the more significant (20_memory.md R44, 30_encoding.md R60). -/
def wordOfBytes (hi lo : Byte) : Word := hi ++ lo

/-- The byte of a word at the lower address. -/
def highByte (w : Word) : Byte := w.extractLsb' 8 8

/-- The byte of a word at the higher address. -/
def lowByte (w : Word) : Byte := w.extractLsb' 0 8

/-- The first instruction of a list of bytes, and the bytes after it. -/
def decodeBytes : List Byte → Except Reject (Instr × List Byte)
  | hi :: lo :: rest =>
    match decodeWord (wordOfBytes hi lo) with
    | .ok i => .ok (i, rest)
    | .error c => .error (.unrecognised c)
  | _ => .error .truncated

/-- The instruction the decoder reads from the word `w` of an opcode-table row of `nbits` bits, laid out in bytes as the
hardware stores it. -/
def decodeTableWord (nbits w : Nat) : Option Instr :=
  match decodeBytes [highByte (BitVec.ofNat 16 (w % 2 ^ nbits)), lowByte (BitVec.ofNat 16 (w % 2 ^ nbits))] with
  | .ok (i, _) => some i
  | .error _ => none

/-! The encoder, by the formats of 30_encoding.md R61. -/

/-- A 4-bit field that holds an index or a count. -/
def nibble (x : Fin 16) : BitVec 4 := BitVec.ofFin x
/-- Format A: class, NNN. -/
def formatA (c : BitVec 4) (nnn : BitVec 12) : Word := c ++ nnn
/-- Formats XK and XS: class, X, then KK or the sub-opcode byte. -/
def formatXK (c : BitVec 4) (x : Idx) (kk : Byte) : Word := c ++ nibble x ++ kk
/-- Formats XY and XYN: class, X, Y, then the sub-opcode nibble or N. -/
def formatXY (c : BitVec 4) (x y : Idx) (n : BitVec 4) : Word := c ++ nibble x ++ nibble y ++ n

/-- The word of an instruction. -/
def encode : Instr → Word
  | .op00E0 => 0x00E0
  | .op00EE => 0x00EE
  | .op1NNN nnn => formatA 0x1 nnn
  | .op2NNN nnn => formatA 0x2 nnn
  | .op3XKK x kk => formatXK 0x3 x kk
  | .op4XKK x kk => formatXK 0x4 x kk
  | .op5XY0 x y => formatXY 0x5 x y 0x0
  | .op6XKK x kk => formatXK 0x6 x kk
  | .op7XKK x kk => formatXK 0x7 x kk
  | .op8XY0 x y => formatXY 0x8 x y 0x0
  | .op8XY1 x y => formatXY 0x8 x y 0x1
  | .op8XY2 x y => formatXY 0x8 x y 0x2
  | .op8XY3 x y => formatXY 0x8 x y 0x3
  | .op8XY4 x y => formatXY 0x8 x y 0x4
  | .op8XY5 x y => formatXY 0x8 x y 0x5
  | .op8XY6 x y => formatXY 0x8 x y 0x6
  | .op8XY7 x y => formatXY 0x8 x y 0x7
  | .op8XYE x y => formatXY 0x8 x y 0xE
  | .op9XY0 x y => formatXY 0x9 x y 0x0
  | .opANNN nnn => formatA 0xA nnn
  | .opBNNN nnn => formatA 0xB nnn
  | .opCXKK x kk => formatXK 0xC x kk
  | .opDXYN x y n => formatXY 0xD x y (nibble n)
  | .opEX9E x => formatXK 0xE x 0x9E
  | .opEXA1 x => formatXK 0xE x 0xA1
  | .opFX07 x => formatXK 0xF x 0x07
  | .opFX0A x => formatXK 0xF x 0x0A
  | .opFX15 x => formatXK 0xF x 0x15
  | .opFX18 x => formatXK 0xF x 0x18
  | .opFX1E x => formatXK 0xF x 0x1E
  | .opFX29 x => formatXK 0xF x 0x29
  | .opFX33 x => formatXK 0xF x 0x33
  | .opFX55 x => formatXK 0xF x 0x55
  | .opFX65 x => formatXK 0xF x 0x65

/-- The bytes of an instruction in memory order (30_encoding.md R60). -/
def encodeBytes (i : Instr) : List Byte := [highByte (encode i), lowByte (encode i)]

end Sys2Proof
end

