-- ==== Sys2Proof/Machine/Cells.lean ====
section
/-! DEFINITION. Sparse byte storage: a list of (address, byte) pairs over a default contents, in one canonical form.
Memory and the display are both held so (log 6, log 12). -/

namespace Sys2Proof.Machine

/-- The byte at `a`: the listed one, else the default contents `d` there. -/
def Cells.read (d : Nat → Byte) : List Host.Cell → Nat → Byte
  | [], a => d a
  | c :: m, a => if c.1 = a then c.2 else Cells.read d m a

/-- The list without the entries of `a`. -/
def Cells.erase (a : Nat) (m : List Host.Cell) : List Host.Cell := m.filter fun c => decide (c.1 ≠ a)

/-- The list with an entry for `a` put before the first greater address. -/
def Cells.insert (a : Nat) (v : Byte) : List Host.Cell → List Host.Cell
  | [] => [(a, v)]
  | c :: m => if a < c.1 then (a, v) :: c :: m else c :: Cells.insert a v m

/-- The byte at `a` becomes `v`. Writing what an unlisted address reads as removes the entry. -/
def Cells.write (d : Nat → Byte) (m : List Host.Cell) (a : Nat) (v : Byte) : List Host.Cell :=
  if v = d a then Cells.erase a m else Cells.insert a v (Cells.erase a m)

/-- The canonical form: addresses strictly rising and below `size`, no entry equal to what an unlisted address reads as. -/
abbrev Cells.wf (d : Nat → Byte) (size : Nat) (m : List Host.Cell) : Prop :=
  m.Pairwise (fun c e => c.1 < e.1) ∧ ∀ c ∈ m, c.1 < size ∧ c.2 ≠ d c.1

/-- What an unlisted address of memory reads as: its contents after reset, FONT at 0x000 to 0x04F and 0 elsewhere
(10_state.md R12). -/
def Memory.unlisted (font : Vector Byte 80) (a : Nat) : Byte := if h : a < 80 then font[a] else 0

/-- The canonical form of memory, 4096 bytes (20_memory.md R40). -/
abbrev Memory.wf (font : Vector Byte 80) (m : List Host.Cell) : Prop := Cells.wf (Memory.unlisted font) 4096 m

/-- What an unlisted display cell reads as: 0, off (10_state.md R20). -/
def Display.unlisted (_ : Nat) : Byte := 0

/-- The canonical form of the display, 2048 cells (10_state.md R20). -/
abbrev Display.wf (m : List Host.Cell) : Prop := Cells.wf Display.unlisted 2048 m

end Sys2Proof.Machine
end

