-- ==== Sys2Proof/Config.lean ====
section
/-! DEFINITION. The two parameters the spec leaves open, FONT and RND (00_scope.md R4), as constants without a body. -/

namespace Sys2Proof

/-- FONT: the 80 bytes reset writes at 0x000 to 0x04F (10_state.md R12). The spec says the table exists and where, and
gives none of its bytes, so they are free: nothing in Lean can evaluate them (log 3). -/
opaque Config.font : Vector Byte 80

/-- RND: the value of the `n`-th draw CXKK takes (42_load_and_arithmetic.md R133). Each draw is a free 8-bit value under
no law (log 4). -/
opaque Config.rnd : Nat → Byte

/-- The conventional font table of 93_implementation_defined.md G1, "from general knowledge, not in source". It is here
for tests only; no definition of the machine uses it (log 3). -/
def Config.conventionalFont : Vector Byte 80 :=
  ⟨#[0xF0, 0x90, 0x90, 0x90, 0xF0,  0x20, 0x60, 0x20, 0x20, 0x70,  0xF0, 0x10, 0xF0, 0x80, 0xF0,
     0xF0, 0x10, 0xF0, 0x10, 0xF0,  0x90, 0x90, 0xF0, 0x10, 0x10,  0xF0, 0x80, 0xF0, 0x10, 0xF0,
     0xF0, 0x80, 0xF0, 0x90, 0xF0,  0xF0, 0x10, 0x20, 0x40, 0x40,  0xF0, 0x90, 0xF0, 0x90, 0xF0,
     0xF0, 0x90, 0xF0, 0x10, 0xF0,  0xF0, 0x90, 0xF0, 0x90, 0x90,  0xE0, 0x90, 0xE0, 0x90, 0xE0,
     0xF0, 0x80, 0x80, 0x80, 0xF0,  0xE0, 0x90, 0x90, 0x90, 0xE0,  0xF0, 0x80, 0xF0, 0x80, 0xF0,
     0xF0, 0x80, 0xF0, 0x80, 0x80], rfl⟩

end Sys2Proof
end

