-- ==== Sys2Proof/Machine/State.lean ====
section
/-! DEFINITION. The state of the Machine (10_state.md) as plain data, the outcomes of a step, and the state after reset. -/

namespace Sys2Proof.Machine

/-- What `step()` returns to its host, with the info of 60_exceptions.md R206. Exactly four kinds (60_exceptions.md R200).
None of them stops the machine: the step answers a next state in every case (40_step_cycle.md R89). -/
inductive StepOutcome where
  /-- the instruction ran to its end; also an FX0A that is still waiting -/
  | ok
  /-- the word `w`, fetched from `addr`, selects no instruction (60_exceptions.md R201) -/
  | unknownInstruction (w : Word) (addr : Addr)
  /-- 2NNN at `addr` with `sp = 16` (60_exceptions.md R202) -/
  | stackOverflow (addr : Addr)
  /-- 00EE at `addr` with `sp = 0` (60_exceptions.md R202) -/
  | stackUnderflow (addr : Addr)
deriving DecidableEq, Repr

/-- The stack conditions read as faults, as 60_exceptions.md R205 advises a model to. NO INSTRUCTION AND NO STEP RAISES
ONE: the spec gives the state each condition leaves (R203), so the step answers that next state and records the condition
in `State.outcome` (log 1). `State.stackFault` of Sys2Proof/Safety.lean reads the outcome as one of these. -/
inductive Fault where
  /-- read from the outcome of a 2NNN with `sp = 16`; safe: a claim may require it absent -/
  | stackOverflow (addr : Addr)
  /-- read from the outcome of a 00EE with `sp = 0`; safe: a claim may require it absent -/
  | stackUnderflow (addr : Addr)
deriving DecidableEq, Repr

/-- Why the model would give no meaning. -/
inductive Refusal where
  /-- an arm of `exec` without a meaning; raised by none, since every instruction has one; safe -/
  | notModelled (mnemonic : String)
deriving DecidableEq, Repr

/-- All the state of the Machine (the table of 10_state.md section 9), then three fields of the model's own. -/
structure State where
  /-- `V[0]` to `V[15]`; `V[15]` is VF (R10, R11) -/
  v : Vector Byte 16
  /-- the index register `I` (R17) -/
  i : Addr
  /-- the program counter (R14, R15) -/
  pc : Addr
  /-- the 16 return addresses (R16) -/
  stack : Vector Addr 16
  /-- the count of stack entries in use, 0 to 16 (R16) -/
  sp : Fin 17
  /-- memory: (address, byte) pairs in the canonical form `Memory.wf`; an unlisted address reads as reset leaves it
  (R12, log 6) -/
  mem : List Host.Cell
  /-- the delay timer `DT` (R18) -/
  dt : Byte
  /-- the sound timer `ST` (R19) -/
  st : Byte
  /-- the display: (cell, byte) pairs in the canonical form `Display.wf`; an unlisted cell reads 0, off (R20, R21, log 12) -/
  disp : List Host.Cell
  /-- the keypad latch, true when pressed (R22) -/
  key : Vector Bool 16
  /-- set by reset, 00E0 and DXYN; cleared by the host only (R23) -/
  redrawPending : Bool
  /-- the model's own: what the last `step()` returned to the host (60_exceptions.md R200; log 1, log 2) -/
  outcome : StepOutcome
  /-- the model's own: how many draws CXKK has taken; it picks the next free value of `Config.rnd` (log 4) -/
  draws : Nat
  /-- the model's own: the parameter FONT, which nothing changes (00_scope.md R4, log 3) -/
  font : Vector Byte 80
deriving DecidableEq, Repr

/-- The reset state for a given font table and count of draws (70_reset_and_hazards.md R230; 10_state.md section 9).
Memory lists nothing: an unlisted address reads as reset leaves it. -/
def State.resetWith (font : Vector Byte 80) (draws : Nat) : State where
  v := Vector.replicate 16 0
  i := 0
  pc := 0x200
  stack := Vector.replicate 16 0
  sp := 0
  mem := []
  dt := 0
  st := 0
  disp := []
  key := Vector.replicate 16 false
  redrawPending := true
  outcome := .ok
  draws := draws
  font := font

/-- The machine right after reset, with the free font table `Config.font` and no draw taken (log 3, log 4). -/
def State.reset : State := State.resetWith Config.font 0

end Sys2Proof.Machine
end

