-- ==== Sys2Proof/Machine/Ops.lean ====
section
/-! DEFINITION. The named operations over the state: registers, memory, display, stack, the end of the execute phase with
or without a condition, the fetch, an unrecognised word and the timer tick. -/

namespace Sys2Proof.Machine

/-- What ends an execute phase. -/
abbrev Result := Host.Outcome State Fault Refusal

/-! Registers. -/

/-- `V[x]` (10_state.md R10). -/
def State.reg (s : State) (x : Idx) : Byte := s.v[x]

/-- `V[x] <- b`. VF is register 15 like any other (10_state.md R11). -/
def State.setReg (s : State) (x : Idx) (b : Byte) : State := { s with v := s.v.set x b }

/-- `I <- a`: all 16 bits are kept (10_state.md R17). -/
def State.setI (s : State) (a : Addr) : State := { s with i := a }

/-- `pc <- a`: all 16 bits are kept (10_state.md R15). -/
def State.setPc (s : State) (a : Addr) : State := { s with pc := a }

/-- `DT <- b` (10_state.md R18). -/
def State.setDt (s : State) (b : Byte) : State := { s with dt := b }

/-- `ST <- b` (10_state.md R19). -/
def State.setSt (s : State) (b : Byte) : State := { s with st := b }

/-! Memory. Every address is reduced modulo 4096 at the access (20_memory.md R41). -/

/-- `MemRead(a, 1)` (20_memory.md R42). -/
def State.readByte (s : State) (a : Nat) : Byte := Cells.read (Memory.unlisted s.font) s.mem (a % 4096)

/-- `MemWrite(a, 1, b)` (20_memory.md R43). -/
def State.writeByte (s : State) (a : Nat) (b : Byte) : State :=
  { s with mem := Cells.write (Memory.unlisted s.font) s.mem (a % 4096) b }

/-- `MemRead(a, 2)`: big-endian, each byte addressed on its own (20_memory.md R44). -/
def State.readWord (s : State) (a : Nat) : Word := wordOfBytes (s.readByte a) (s.readByte (a + 1))

/-- The bytes of a list, written from `a` upward. -/
def State.storeBytes (s : State) (a : Nat) : List Byte → State
  | [] => s
  | b :: bs => (s.writeByte a b).storeBytes (a + 1) bs

/-! The display, a space of its own (10_state.md R20). -/

/-- `disp[k]`. -/
def State.cell (s : State) (k : Nat) : Byte := Cells.read Display.unlisted s.disp k

/-- `disp[k] <- b`. -/
def State.setCell (s : State) (k : Nat) (b : Byte) : State := { s with disp := Cells.write Display.unlisted s.disp k b }

/-- Every cell 0: nothing is listed. -/
def State.clearDisp (s : State) : State := { s with disp := [] }

/-- `redrawPending <- b` (10_state.md R23). -/
def State.setRedraw (s : State) (b : Bool) : State := { s with redrawPending := b }

/-! The stack (10_state.md R16). -/

/-- `stack[j] <- a`. -/
def State.setStack (s : State) (j : Fin 16) (a : Addr) : State := { s with stack := s.stack.set j a }

/-- `sp <- n`. -/
def State.setSp (s : State) (n : Fin 17) : State := { s with sp := n }

/-! The keypad latch and the random source. -/

/-- All 16 bits of the keypad latch replaced (10_state.md R22). -/
def State.setKey (s : State) (k : Vector Bool 16) : State := { s with key := k }

/-- `rnd()`: the next draw, a free value (42_load_and_arithmetic.md R133, log 4). -/
def State.draw (s : State) : Byte := Config.rnd s.draws

/-- The draw is taken. -/
def State.countDraw (s : State) : State := { s with draws := s.draws + 1 }

/-! The ends of an execute phase. -/

/-- What the step returns to the host is recorded in the state (log 1). -/
def State.setOutcome (s : State) (c : StepOutcome) : State := { s with outcome := c }

/-- A rule that ends without a `raise` gives the outcome OK (60_exceptions.md R200). -/
def complete (s : State) : Result := .next (s.setOutcome .ok)

/-- `raise c`: the execute phase ends here with the condition `c`, and the state is as it stands (60_exceptions.md R200).
This is all the hardware has for taking an exception: no control is transferred, nothing is saved, no mode changes, and
so there is no return from one (60_exceptions.md R205, R209). -/
def raise (c : StepOutcome) (s : State) : Result := .next (s.setOutcome c)

/-- `for k = 0 to n - 1: body`. -/
def forUpTo (n : Nat) (body : Nat → State → State) (s : State) : State :=
  match n with
  | 0 => s
  | k + 1 => body k (forUpTo k body s)

/-! The parts of a step that are no instruction. -/

/-- The instruction word: the fetch changes no state and cannot fail (40_step_cycle.md R81). -/
def State.fetch (s : State) : Word := s.readWord s.pc.toNat

/-- The execute phase of an unrecognised word (40_step_cycle.md R85, 60_exceptions.md R201). -/
def unknownWord (s : State) : Result := raise (.unknownInstruction s.fetch s.pc) (s.setPc (s.pc + 2))

/-- One count down, clamped at 0. -/
def countDown (t : Byte) : Byte := if t > 0 then t - 1 else t

/-- The timer tick (40_step_cycle.md R86). -/
def State.tick (s : State) : State := (s.setDt (countDown s.dt)).setSt (countDown s.st)

/-- The tick that closes every step, whatever its outcome (40_step_cycle.md R87). -/
def tickAfter : Result → Result
  | .next s => .next s.tick
  | .fault r => .fault r
  | .refused r => .refused r

end Sys2Proof.Machine
end

