-- ==== Sys2Proof/Machine/Operands.lean ====
section
/-! DEFINITION. Operand forms: targets of the program counter, the address of an element, the key a register names, the
origin and pixels of a sprite, the decimal digits of a byte. -/

namespace Sys2Proof.Machine

/-- `zext_16(NNN)` (30_encoding.md R62). -/
def zext12 (nnn : BitVec 12) : Addr := nnn.setWidth 16

/-- `zext_16` of a byte. -/
def zext8 (b : Byte) : Addr := b.setWidth 16

/-- `pc <- next` (40_step_cycle.md R84). -/
def State.toNext (s : State) : State := s.setPc (s.pc + 2)

/-- `pc <- skip` (40_step_cycle.md R84). -/
def State.toSkip (s : State) : State := s.setPc (s.pc + 4)

/-- `if c then pc <- skip else pc <- next`; the skipped word is not examined (40_step_cycle.md R84). -/
def State.skipIf (s : State) (c : Bool) : State := if c then s.toSkip else s.toNext

/-- The address value of element `j` of an access through `I`; the access reduces it modulo 4096
(43_index_and_memory.md R146). -/
def State.elemAddr (s : State) (j : Nat) : Nat := s.i.toNat + j

/-- The index register after an access of `n` bytes by FX55 and FX65 (43_index_and_memory.md R146). -/
def State.advanceI (s : State) (n : Nat) : State := s.setI (s.i + BitVec.ofNat 16 n)

/-- Register number `j`, for the loops over `V[0]` to `V[X]`, in which `j` is below 16. -/
def regNo (j : Nat) : Idx := Fin.ofNat 16 j

/-- `key[b mod 16]` (45_keypad_and_timers.md R176). -/
def State.keyAt (s : State) (b : Byte) : Bool := s.key[Fin.ofNat 16 b.toNat]

/-- The greatest pressed key below `n` (45_keypad_and_timers.md R172: scanned upward, the last match wins). -/
def highestKey (key : Vector Bool 16) : Nat → Option Idx
  | 0 => none
  | n + 1 => if key[Fin.ofNat 16 n] then some (Fin.ofNat 16 n) else highestKey key n

/-- The coordinate of a sprite's origin that a register gives (44_display.md R162; for the row the source's literal is
also 64, 90_conflicts.md C2). -/
def originOf (b : Byte) : Nat := b.toNat % 64

/-- The display cell of column `x0 + col` and row `y0 + r`, each wrapped on its own axis (44_display.md R161, R162). -/
def pixelIndex (x0 y0 col r : Nat) : Nat := ((y0 + r) % 32) * 64 + (x0 + col) % 64

/-- Whether column `col` of a sprite row is 1: bit 7 is the leftmost (44_display.md R161). -/
def spriteBit (b : Byte) (col : Nat) : Bool := b.getLsbD (7 - col)

/-- The decimal digits of a byte (43_index_and_memory.md R143). -/
def hundreds (b : Byte) : Byte := BitVec.ofNat 8 (b.toNat / 100)
def tens (b : Byte) : Byte := BitVec.ofNat 8 (b.toNat / 10 % 10)
def ones (b : Byte) : Byte := BitVec.ofNat 8 (b.toNat % 10)

end Sys2Proof.Machine
end

