-- ==== Sys2Proof/Machine/ControlFlow.lean ====
section
/-! DEFINITION. Control flow: 00EE, 1NNN, 2NNN, 3XKK, 4XKK, 5XY0, 9XY0, BNNN (41_control_flow.md). -/

namespace Sys2Proof.Machine

/-- 00EE, return (R100). Underflow is found before anything is written (60_exceptions.md R203). -/
def exec00EE (s : State) : Result :=
  if h : s.sp = 0 then raise (.stackUnderflow s.pc) s
  else
    complete ((s.setSp (s.sp.pred h).castSucc).setPc (s.stack[s.sp.pred h] + 2))

/-- 1NNN, jump (R101). -/
def exec1NNN (nnn : BitVec 12) (s : State) : Result := complete (s.setPc (zext12 nnn))

/-- 2NNN, call (R102): the address of the call itself is saved. Overflow is found before anything is written
(60_exceptions.md R203). -/
def exec2NNN (nnn : BitVec 12) (s : State) : Result :=
  if h : s.sp.val < 16 then
    complete (((s.setStack (s.sp.castLT h) s.pc).setSp (s.sp.castLT h).succ).setPc (zext12 nnn))
  else raise (.stackOverflow s.pc) s

/-- 3XKK, skip if equal to a byte (R103). -/
def exec3XKK (x : Idx) (kk : Byte) (s : State) : Result := complete (s.skipIf (s.reg x == kk))

/-- 4XKK, skip if not equal to a byte (R104). -/
def exec4XKK (x : Idx) (kk : Byte) (s : State) : Result := complete (s.skipIf (s.reg x != kk))

/-- 5XY0, skip if two registers are equal (R105). -/
def exec5XY0 (x y : Idx) (s : State) : Result := complete (s.skipIf (s.reg x == s.reg y))

/-- 9XY0, skip if two registers differ (R106). -/
def exec9XY0 (x y : Idx) (s : State) : Result := complete (s.skipIf (s.reg x != s.reg y))

/-- BNNN, jump to an address plus `V[0]` (R108). -/
def execBNNN (nnn : BitVec 12) (s : State) : Result := complete (s.setPc (zext12 nnn + zext8 (s.reg 0)))

end Sys2Proof.Machine
end

