-- ==== Sys2Proof/Machine/Flags.lean ====
section
/-! DEFINITION. The values the flag VF takes (10_state.md R13). VF is register 15 and has no storage of its own. -/

namespace Sys2Proof.Machine

/-- The number of VF. -/
def flagReg : Idx := 15

/-- `VF <- f`. -/
def State.setFlag (s : State) (f : Byte) : State := s.setReg flagReg f

/-- 8XY4: 1 when the exact sum exceeds 255 (42_load_and_arithmetic.md R126). -/
def carry (sum : Nat) : Byte := if sum > 255 then 1 else 0

/-- 8XY5 and 8XY7: 0 when the subtrahend is greater, a borrow, else 1 (42_load_and_arithmetic.md R127, R129). -/
def noBorrow (minuend subtrahend : Byte) : Byte := if subtrahend > minuend then 0 else 1

/-- 8XY6: the bit shifted out at the bottom (42_load_and_arithmetic.md R128). -/
def bottomBit (b : Byte) : Byte := b &&& 1

/-- 8XYE: the bit shifted out at the top (42_load_and_arithmetic.md R130). -/
def topBit (b : Byte) : Byte := b >>> 7

/-- FX1E: 1 when the exact sum passes the end of memory (43_index_and_memory.md R141, 90_conflicts.md C7). -/
def pastMemory (sum : Nat) : Byte := if sum > 0xFFF then 1 else 0

end Sys2Proof.Machine
end

