-- ==== Sys2Proof/Machine/Display.lean ====
section
/-! DEFINITION. Display: 00E0, DXYN (44_display.md). -/

namespace Sys2Proof.Machine

/-- 00E0, clear the display (R160). -/
def exec00E0 (s : State) : Result := complete (s.clearDisp.setRedraw true).toNext

/-- One display cell meets a sprite bit of 1: VF is set if the cell is on, and the cell is toggled (R162). -/
def State.togglePixel (k : Nat) (s : State) : State :=
  let t := if s.cell k ≠ 0 then s.setFlag 1 else s
  t.setCell k (t.cell k ^^^ 1)

/-- Row `r` of a sprite at origin `(x0, y0)`: its byte is read, then its 8 columns are drawn from the left (R162). -/
def State.drawRow (x0 y0 r : Nat) (s : State) : State :=
  let b := s.readByte (s.elemAddr r)
  forUpTo 8 (fun col t => if spriteBit b col then t.togglePixel (pixelIndex x0 y0 col r) else t) s

/-- DXYN, draw a sprite by exclusive-or (R162): the origin is read before VF is cleared. -/
def execDXYN (x y : Idx) (n : Fin 16) (s : State) : Result :=
  let x0 := originOf (s.reg x)
  let y0 := originOf (s.reg y)
  complete ((forUpTo n.val (State.drawRow x0 y0) (s.setFlag 0)).setRedraw true).toNext

end Sys2Proof.Machine
end

