-- ==== Sys2Proof/Machine/IndexMemory.lean ====
section
/-! DEFINITION. Index register and memory: ANNN, FX1E, FX29, FX33, FX55, FX65 (43_index_and_memory.md). -/

namespace Sys2Proof.Machine

/-- ANNN, load the index register (R140). -/
def execANNN (nnn : BitVec 12) (s : State) : Result := complete (s.setI (zext12 nnn)).toNext

/-- FX1E, add a register to the index register (R141): the flag first, from the exact sum; then `V[X]` as it now stands. -/
def execFX1E (x : Idx) (s : State) : Result :=
  let f := s.setFlag (pastMemory (s.i.toNat + (s.reg x).toNat))
  complete (f.setI (f.i + zext8 (f.reg x))).toNext

/-- FX29, point the index register at a font glyph (R142): the product is formed for every value of `V[X]`. -/
def execFX29 (x : Idx) (s : State) : Result := complete (s.setI (BitVec.ofNat 16 ((s.reg x).toNat * 5))).toNext

/-- FX33, store the decimal digits of a register (R143). -/
def execFX33 (x : Idx) (s : State) : Result :=
  let b := s.reg x
  complete (((s.writeByte (s.elemAddr 0) (hundreds b)).writeByte (s.elemAddr 1) (tens b)).writeByte
    (s.elemAddr 2) (ones b)).toNext

/-- The stores of FX55: `V[0]` to `V[n - 1]` from `I` upward. -/
def State.storeRegs (s : State) (n : Nat) : State :=
  forUpTo n (fun j t => t.writeByte (t.elemAddr j) (t.reg (regNo j))) s

/-- The loads of FX65: `V[0]` to `V[n - 1]` from `I` upward. -/
def State.loadRegs (s : State) (n : Nat) : State :=
  forUpTo n (fun j t => t.setReg (regNo j) (t.readByte (t.elemAddr j))) s

/-- FX55, store registers 0 to X (R144): `I` advances by X + 1 after all the stores. -/
def execFX55 (x : Idx) (s : State) : Result := complete ((s.storeRegs (x.val + 1)).advanceI (x.val + 1)).toNext

/-- FX65, load registers 0 to X (R145): `I` advances by X + 1 after all the loads. -/
def execFX65 (x : Idx) (s : State) : Result := complete ((s.loadRegs (x.val + 1)).advanceI (x.val + 1)).toNext

end Sys2Proof.Machine
end

