-- ==== Sys2Proof/Machine/KeypadTimers.lean ====
section
/-! DEFINITION. Keypad and timers: EX9E, EXA1, FX0A, FX07, FX15, FX18 (45_keypad_and_timers.md). -/

namespace Sys2Proof.Machine

/-- EX9E, skip if a key is pressed (R170). -/
def execEX9E (x : Idx) (s : State) : Result := complete (s.skipIf (s.keyAt (s.reg x)))

/-- EXA1, skip if a key is not pressed (R171). -/
def execEXA1 (x : Idx) (s : State) : Result := complete (s.skipIf (!s.keyAt (s.reg x)))

/-- FX0A, wait for a key (R172): with no key pressed the execute phase changes nothing and the outcome is OK. -/
def execFX0A (x : Idx) (s : State) : Result :=
  match highestKey s.key 16 with
  | some k => complete (s.setReg x (BitVec.ofNat 8 k.val)).toNext
  | none => complete s

/-- FX07, read the delay timer (R173): before the tick of this step. -/
def execFX07 (x : Idx) (s : State) : Result := complete (s.setReg x s.dt).toNext

/-- FX15, set the delay timer (R174): the tick of the same step then counts it down. -/
def execFX15 (x : Idx) (s : State) : Result := complete (s.setDt (s.reg x)).toNext

/-- FX18, set the sound timer (R175): the tick of the same step then counts it down. -/
def execFX18 (x : Idx) (s : State) : Result := complete (s.setSt (s.reg x)).toNext

end Sys2Proof.Machine
end

