-- ==== Sys2Proof/Machine/LoadArithmetic.lean ====
section
/-! DEFINITION. Register load, arithmetic, logic, shifts and random: 6XKK, 7XKK, 8XY0 to 8XY7, 8XYE, CXKK
(42_load_and_arithmetic.md). The statements of a rule are performed in the order written, each reading the state the one
before it left, also where X or Y is VF (R119, log 8). -/

namespace Sys2Proof.Machine

/-- 6XKK, load a byte (R120). -/
def exec6XKK (x : Idx) (kk : Byte) (s : State) : Result := complete (s.setReg x kk).toNext

/-- 7XKK, add a byte, no flag (R121). -/
def exec7XKK (x : Idx) (kk : Byte) (s : State) : Result :=
  complete (s.setReg x (BitVec.ofNat 8 ((s.reg x).toNat + kk.toNat))).toNext

/-- 8XY0, copy (R122). -/
def exec8XY0 (x y : Idx) (s : State) : Result := complete (s.setReg x (s.reg y)).toNext

/-- 8XY1, or, no flag (R123). -/
def exec8XY1 (x y : Idx) (s : State) : Result := complete (s.setReg x (s.reg x ||| s.reg y)).toNext

/-- 8XY2, and, no flag (R124). -/
def exec8XY2 (x y : Idx) (s : State) : Result := complete (s.setReg x (s.reg x &&& s.reg y)).toNext

/-- 8XY3, exclusive-or, no flag (R125). -/
def exec8XY3 (x y : Idx) (s : State) : Result := complete (s.setReg x (s.reg x ^^^ s.reg y)).toNext

/-- 8XY4, add with carry out (R126): the sum is formed before any write, then the flag, then `V[X]`. -/
def exec8XY4 (x y : Idx) (s : State) : Result :=
  let sum := (s.reg x).toNat + (s.reg y).toNat
  complete ((s.setFlag (carry sum)).setReg x (BitVec.ofNat 8 sum)).toNext

/-- 8XY5, subtract `V[Y]` from `V[X]` (R127): the flag first. -/
def exec8XY5 (x y : Idx) (s : State) : Result :=
  let f := s.setFlag (noBorrow (s.reg x) (s.reg y))
  complete (f.setReg x (f.reg x - f.reg y)).toNext

/-- 8XY6, shift `V[X]` right by one (R128): the flag first; `V[Y]` is not used. -/
def exec8XY6 (x _y : Idx) (s : State) : Result :=
  let f := s.setFlag (bottomBit (s.reg x))
  complete (f.setReg x (f.reg x >>> 1)).toNext

/-- 8XY7, subtract `V[X]` from `V[Y]` (R129): the flag first. -/
def exec8XY7 (x y : Idx) (s : State) : Result :=
  let f := s.setFlag (noBorrow (s.reg y) (s.reg x))
  complete (f.setReg x (f.reg y - f.reg x)).toNext

/-- 8XYE, shift `V[X]` left by one (R130): the flag first; `V[Y]` is not used. -/
def exec8XYE (x _y : Idx) (s : State) : Result :=
  let f := s.setFlag (topBit (s.reg x))
  complete (f.setReg x (f.reg x <<< 1)).toNext

/-- CXKK, random byte under a mask (R132): exactly one draw (R133). -/
def execCXKK (x : Idx) (kk : Byte) (s : State) : Result :=
  complete (s.countDraw.setReg x (s.draw &&& kk)).toNext

end Sys2Proof.Machine
end

