-- ==== Sys2Proof/Machine/Step.lean ====
section
/-! DEFINITION. One step: fetch, decode, execute, then the timer tick (40_step_cycle.md R80). -/

namespace Sys2Proof.Machine

/-- The execute phase of whatever the program counter points at: the instruction the fetched word selects, or the rule of
an unrecognised word (40_step_cycle.md R80, R85). -/
def execFetched (s : State) : Host.Outcome State Fault Refusal :=
  match decodeWord s.fetch with
  | .ok i => exec i s
  | .error _ => unknownWord s

/-- `step()` (40_step_cycle.md R80). What it returns to the host is `outcome` of the next state. -/
def step (s : State) : Host.Outcome State Fault Refusal := tickAfter (execFetched s)

/-- The state with the instruction `w` of `nbits` bits stored where the next step fetches: at `pc`, the more significant
byte first. It stands for the load of a program from outside (70_reset_and_hazards.md R233, log 17). -/
def State.withFetchWord (s : State) (nbits w : Nat) : State :=
  s.storeBytes s.pc.toNat [highByte (BitVec.ofNat 16 (w % 2 ^ nbits)), lowByte (BitVec.ofNat 16 (w % 2 ^ nbits))]

end Sys2Proof.Machine
end

