-- ==== Sys2Proof/Machine/HostInterface.lean ====
section
/-! DEFINITION. The host's operations on the block (70_reset_and_hazards.md R236). Each is whole and acts between steps
(20_memory.md R52); a host that overlaps two has no move here (70_reset_and_hazards.md R241, log 16). -/

namespace Sys2Proof.Machine

/-- `reset()` (70_reset_and_hazards.md R230). FONT stays the parameter it is, and the draws already taken stay taken: the
reseeding gives no law between the draws before and after it (log 4). -/
def State.resetOp (s : State) : State := State.resetWith s.font s.draws

/-- What `loadProgram` returns (60_exceptions.md R204, R206). -/
inductive LoadResult where
  | ok
  /-- LoadError: the length offered exceeds 3584 -/
  | programTooLarge (length : Nat)
deriving DecidableEq, Repr

/-- `loadProgram(bytes)` (70_reset_and_hazards.md R233): the reset comes first, also before a refusal. -/
def State.loadProgram (s : State) (bytes : List Byte) : LoadResult × State :=
  if bytes.length > 3584 then (.programTooLarge bytes.length, s.resetOp)
  else (.ok, s.resetOp.storeBytes 0x200 bytes)

/-- `setKeys(k)` (70_reset_and_hazards.md R237). -/
def State.setKeys (s : State) (k : Vector Bool 16) : State := s.setKey k

/-- `clearRedrawPending()` (70_reset_and_hazards.md R238). -/
def State.clearRedrawPending (s : State) : State := s.setRedraw false

/-- `readDisplay()`: the 2048 cells; any nonzero cell is on (70_reset_and_hazards.md R239). -/
def State.readDisplay (s : State) : List Byte := (List.range 2048).map s.cell

/-- `readRedrawPending()` (70_reset_and_hazards.md R239). -/
def State.readRedrawPending (s : State) : Bool := s.redrawPending

/-- `readSoundTimer()` (70_reset_and_hazards.md R239): the only sound output (log 24). -/
def State.readSoundTimer (s : State) : Byte := s.st

/-- The moves of the host agent: the eight operations of 70_reset_and_hazards.md R236. -/
inductive HostMove where
  | reset
  | loadProgram (bytes : List Byte)
  | setKeys (k : Vector Bool 16)
  | step
  | readDisplay
  | readRedrawPending
  | clearRedrawPending
  | readSoundTimer
deriving DecidableEq, Repr

/-- What a move gives back to the host. -/
inductive HostResult where
  | none
  | load (r : LoadResult)
  | step (c : StepOutcome)
  | display (cells : List Byte)
  | redrawPending (b : Bool)
  | soundTimer (b : Byte)
deriving DecidableEq, Repr

/-- One move of the host: the next state and the result. -/
def hostMove (m : HostMove) (s : State) : Host.Outcome (State × HostResult) Fault Refusal :=
  match m with
  | .reset => .next (s.resetOp, .none)
  | .loadProgram bytes => .next ((s.loadProgram bytes).2, .load (s.loadProgram bytes).1)
  | .setKeys k => .next (s.setKeys k, .none)
  | .step =>
    match Sys2Proof.Machine.step s with
    | .next t => .next (t, .step t.outcome)
    | .fault r => .fault r
    | .refused r => .refused r
  | .readDisplay => .next (s, .display s.readDisplay)
  | .readRedrawPending => .next (s, .redrawPending s.readRedrawPending)
  | .clearRedrawPending => .next (s.clearRedrawPending, .none)
  | .readSoundTimer => .next (s, .soundTimer s.readSoundTimer)

/-- The code a hardware outcome port would carry (60_exceptions.md R206); no rule reads it. -/
def StepOutcome.code : StepOutcome → Nat
  | .ok => 0
  | .unknownInstruction _ _ => 1
  | .stackOverflow _ => 2
  | .stackUnderflow _ => 3

end Sys2Proof.Machine
end

