-- ==== Sys2Proof/Safety.lean ====
section
/-! DEFINITION. What counts as a safe run, a faulted run and a finished one, in the terms claims use. -/

namespace Sys2Proof.Machine

/-- The fault a stack condition is, by the advice of 60_exceptions.md R205: a run whose state has one is faulted and is
never final (log 1). -/
def State.stackFault (s : State) : Option Fault :=
  match s.outcome with
  | .stackOverflow a => some (.stackOverflow a)
  | .stackUnderflow a => some (.stackUnderflow a)
  | .ok => none
  | .unknownInstruction _ _ => none

/-- The last step reported no stack condition. -/
abbrev State.Safe (s : State) : Prop := s.stackFault = none

/-- The last step reported no unknown instruction: a claim may require this of every step (60_exceptions.md R205). -/
def State.noUnknown (s : State) : Bool :=
  match s.outcome with
  | .unknownInstruction _ _ => false
  | .ok => true
  | .stackOverflow _ => true
  | .stackUnderflow _ => true

/-- The end of a run, a notion of models and not of the hardware (70_reset_and_hazards.md R246, log 19): the word at `pc`
is a jump to `pc` itself, `pc` is at most 0x0FFF, and no stack condition has been reported. -/
abbrev State.AtEnd (s : State) : Prop :=
  s.pc.toNat ≤ 0xFFF ∧ decodeWord s.fetch = .ok (.op1NNN (s.pc.setWidth 12)) ∧ s.Safe

/-- Every display cell holds 0 or 1 (10_state.md R21). -/
abbrev State.BinaryDisplay (s : State) : Prop := ∀ c ∈ s.disp, c.2 = 1

/-- The invariant every step and every host operation keeps: memory and display are in their canonical forms, and every
display cell holds 0 or 1. -/
abbrev State.Inv (s : State) : Prop := Memory.wf s.font s.mem ∧ Display.wf s.disp ∧ s.BinaryDisplay

/-- The states a host can bring the Machine to: from the reset state, by moves (70_reset_and_hazards.md R231, R236). -/
inductive Reachable : State → Prop
  | reset : Reachable State.reset
  | move {s t : State} {m : HostMove} {r : HostResult} :
      Reachable s → hostMove m s = .next (t, r) → Reachable t

end Sys2Proof.Machine
end

