-- ==== Sys2Proof/Certificates/Slice0/Obligations.lean ====
section
/-! DEFINITION. The obligations: what the spec says the Machine does, stated of every state. Reductions of `pc` and `I`
modulo 65536 and of memory addresses modulo 4096 are the spec's own readings D3 and D4 (log 9). -/

namespace Sys2Proof.Claims

open Sys2Proof.Machine

/-- The parts of the state a frame names. The keypad latch and FONT are in every frame: no instruction changes them. -/
inductive Part where
  | index | stack | memory | delay | sound | display | redraw | draws
deriving DecidableEq, Repr

/-- The part is as it was. Memory and the display are compared byte by byte and cell by cell. -/
def Part.Same : Part → State → State → Prop
  | .index, s, t => t.i = s.i
  | .stack, s, t => t.stack = s.stack ∧ t.sp = s.sp
  | .memory, s, t => ∀ a, t.readByte a = s.readByte a
  | .delay, s, t => t.dt = s.dt
  | .sound, s, t => t.st = s.st
  | .display, s, t => ∀ k, t.cell k = s.cell k
  | .redraw, s, t => t.redrawPending = s.redrawPending
  | .draws, s, t => t.draws = s.draws

/-- Every part but those listed is as it was, and so are the keypad latch and FONT. -/
def SameBut (ps : List Part) (s t : State) : Prop := (∀ p, p ∉ ps → p.Same s t) ∧ t.key = s.key ∧ t.font = s.font

/-- Every register but those of which `P` holds is as it was. -/
def RegsBut (P : Idx → Prop) (s t : State) : Prop := ∀ r, ¬ P r → t.reg r = s.reg r

/-- No register changed. -/
abbrev SameRegs (s t : State) : Prop := RegsBut (fun _ => False) s t

/-- `pc` moved by `n`, modulo 65536. -/
def PcPlus (n : Nat) (s t : State) : Prop := t.pc.toNat = (s.pc.toNat + n) % 65536

/-- What an instruction that only writes register `x` does beside that write: the outcome is OK, `pc <- next`, every
other register and every other part of the state is as it was. -/
def WritesOnly (x : Idx) (s t : State) : Prop :=
  t.outcome = .ok ∧ PcPlus 2 s t ∧ RegsBut (· = x) s t ∧ SameBut [] s t

/-- The same for an instruction that also writes VF as a flag. -/
def WritesOnlyAndFlag (x : Idx) (s t : State) : Prop :=
  t.outcome = .ok ∧ PcPlus 2 s t ∧ RegsBut (fun r => r = x ∨ r = 15) s t ∧ SameBut [] s t

/-- Whether the sprite of `n` rows at the origin that `V[x]`, `V[y]` give and in the bytes from `I` has a bit of 1 that
falls on column `px` and row `py` (44_display.md R161, R162). -/
def Touches (s : State) (x y : Idx) (n px py : Nat) : Prop :=
  ∃ r < n, ∃ col < 8, (s.readByte (s.i.toNat + r)).getLsbD (7 - col) = true ∧
    px = ((s.reg x).toNat + col) % 64 ∧ py = ((s.reg y).toNat + r) % 32

end Sys2Proof.Claims

open Sys2Proof Sys2Proof.Machine Sys2Proof.Claims

/-- O1. The examples of 30_encoding.md section 5. -/
def Obligations.SpecWordsDecode : Prop :=
  decodeWord 0x600A = .ok (.op6XKK 0 0x0A) ∧ decodeWord 0x8014 = .ok (.op8XY4 0 1) ∧
  decodeWord 0xD125 = .ok (.opDXYN 1 2 5) ∧ decodeWord 0x220A = .ok (.op2NNN 0x20A) ∧
  decodeWord 0xF265 = .ok (.opFX65 2) ∧ decodeWord 0x8AB6 = .ok (.op8XY6 0xA 0xB) ∧
  decodeWord 0x0000 = .error .class0 ∧ decodeWord 0x5121 = .error .class5

/-- O2. No bit of an encoding is dropped (30_encoding.md R61, R62, R64; which field a class tests is the spec's
reading D1, log 7). -/
def Obligations.DecodeOfEncodeIsInstruction : Prop :=
  ∀ i : Instr, decodeWord (encode i) = .ok i ∧ decodeBytes (encodeBytes i) = .ok (i, [])

/-- O3. The other direction: the unused field Y of 8XY6 and 8XYE is kept in the syntax, so every word has one meaning
(30_encoding.md R62, R66). -/
def Obligations.EncodeOfDecodeIsWord : Prop :=
  ∀ (w : Word) (i : Instr), decodeWord w = .ok i → encode i = w

/-- O4. Decoding by class (30_encoding.md R63, whose reading of the sub-opcodes is D1, log 7) selects the rows of the
opcode map (R64) and no other; no word matches two. -/
def Obligations.DecoderAgreesWithOpcodeMap : Prop :=
  opcodeMap.length = 34 ∧ ∀ w : Word,
    match decodeWord w with
    | .ok i => i.row ∈ opcodeMap ∧ i.row.selects w ∧ ∀ r ∈ opcodeMap, r.selects w → r = i.row
    | .error _ => ∀ r ∈ opcodeMap, ¬ r.selects w

/-- O5. A step is fetch, decode, execute and one tick (40_step_cycle.md R80). The execute phase sees `pc` at the
instruction's own address (R82); the instruction writes `pc` itself (R84). -/
def Obligations.StepRunsDecodedInstruction : Prop :=
  ∀ (s m : State) (i : Instr) (rest : List Byte),
    decodeBytes [s.readByte s.pc.toNat, s.readByte (s.pc.toNat + 1)] = .ok (i, rest) → exec i s = .next m →
    step s = .next m.tick

/-- O6. 40_step_cycle.md R81 and 20_memory.md R44; the reduction modulo 4096 is the spec's own reading D3 (log 9). -/
def Obligations.FetchedWordIsBigEndian : Prop :=
  (∀ s : State, s.fetch.toNat =
      (s.readByte (s.pc.toNat % 4096)).toNat * 256 + (s.readByte ((s.pc.toNat + 1) % 4096)).toNat) ∧
  ∀ s : State, s.pc = 0xFFF → s.fetch.toNat = (s.readByte 0xFFF).toNat * 256 + (s.readByte 0).toNat

/-- O7. The whole of 40_step_cycle.md R85. The info recorded with the outcome is 60_exceptions.md R206, the spec's own
choice D13 (log 20); the field that holds the outcome is the model's (log 1). -/
def Obligations.UnrecognisedWordOnlyAdvancesPc : Prop :=
  ∀ (s : State) (e : Unrecognised), decodeWord s.fetch = .error e →
    ∃ t, step s = .next t ∧ t.outcome = .unknownInstruction s.fetch s.pc ∧ PcPlus 2 s t ∧ SameRegs s t ∧
      t.dt.toNat = s.dt.toNat - 1 ∧ t.st.toNat = s.st.toNat - 1 ∧ SameBut [.delay, .sound] s t

/-- O8. 40_step_cycle.md R89: a step always completes and returns. That the stack conditions are next states is the
model's choice (log 1). -/
def Obligations.StepAlwaysAnswersNextState : Prop :=
  ∀ s : State, ∃ t, step s = .next t

/-- O9. 40_step_cycle.md R86, over the natural numbers, where 0 - 1 is 0. -/
def Obligations.TickCountsTimersDown : Prop :=
  ∀ s : State, s.tick.dt.toNat = s.dt.toNat - 1 ∧ s.tick.st.toNat = s.st.toNat - 1 ∧
    s.tick.pc = s.pc ∧ s.tick.outcome = s.outcome ∧ SameRegs s s.tick ∧ SameBut [.delay, .sound] s s.tick

/-- O10. A rule over all instructions. That waiting, unrecognised and faulted steps also tick is the spec's own
reading D11 (log 13). -/
def Obligations.TimersCountInEveryStep : Prop :=
  ∀ s t : State, step s = .next t →
    ((∀ x, decodeWord s.fetch ≠ .ok (.opFX15 x)) → t.dt.toNat = s.dt.toNat - 1) ∧
    ((∀ x, decodeWord s.fetch ≠ .ok (.opFX18 x)) → t.st.toNat = s.st.toNat - 1)

/-- O11. 10_state.md R16: no instruction but 2NNN writes the stack. -/
def Obligations.OnlyCallWritesStack : Prop :=
  ∀ s t : State, step s = .next t →
    ((∀ nnn, decodeWord s.fetch ≠ .ok (.op2NNN nnn)) →
      t.stack = s.stack ∧ (decodeWord s.fetch ≠ .ok .op00EE → t.sp = s.sp))

/-- O12. 10_state.md R22: only the host writes the latch. That it holds from step to step is the spec's own choice D22
(log 16). -/
def Obligations.StepNeverWritesKeypad : Prop :=
  ∀ s t : State, step s = .next t → t.key = s.key ∧ t.font = s.font

/-- O13. 10_state.md R23 and 90_conflicts.md C4. That no step clears the flag is the spec's own choice D24 (log 16).
-/
def Obligations.RedrawSetExactlyByDrawing : Prop :=
  ∀ s t : State, step s = .next t →
    ((decodeWord s.fetch = .ok .op00E0 ∨ ∃ x y n, decodeWord s.fetch = .ok (.opDXYN x y n)) → t.redrawPending = true) ∧
    (¬ (decodeWord s.fetch = .ok .op00E0 ∨ ∃ x y n, decodeWord s.fetch = .ok (.opDXYN x y n)) →
      t.redrawPending = s.redrawPending)

/-- O14. 10_state.md R20: only 00E0 and DXYN write the display. -/
def Obligations.OnlyDrawingWritesDisplay : Prop :=
  ∀ s t : State, step s = .next t → decodeWord s.fetch ≠ .ok .op00E0 →
    (∀ x y n, decodeWord s.fetch ≠ .ok (.opDXYN x y n)) → ∀ k, t.cell k = s.cell k

/-- O15. 20_memory.md R40 and the table of 10_state.md section 9. -/
def Obligations.OnlyStoresWriteMemory : Prop :=
  ∀ s t : State, step s = .next t → (∀ x, decodeWord s.fetch ≠ .ok (.opFX33 x)) →
    (∀ x, decodeWord s.fetch ≠ .ok (.opFX55 x)) → ∀ a, t.readByte a = s.readByte a

/-- O16. 10_state.md R17: the instructions that write `I`. -/
def Obligations.OnlyIndexInstructionsWriteIndex : Prop :=
  ∀ s t : State, step s = .next t → (∀ nnn, decodeWord s.fetch ≠ .ok (.opANNN nnn)) →
    (∀ x, decodeWord s.fetch ≠ .ok (.opFX1E x) ∧ decodeWord s.fetch ≠ .ok (.opFX29 x) ∧
      decodeWord s.fetch ≠ .ok (.opFX55 x) ∧ decodeWord s.fetch ≠ .ok (.opFX65 x)) → t.i = s.i

/-- O17. 10_state.md R11 and R13: the instructions that write VF as a side effect are exactly seven; 6XKK, 7XKK, 8XY0
to 8XY3, CXKK, FX07, FX0A and FX65 reach VF only with X = 15. -/
def Obligations.FlagWrittenOnlyByItsInstructions : Prop :=
  ∀ s t : State, step s = .next t →
    (∀ x y : Idx, ∀ n : Fin 16, ∀ i ∈ [Instr.op8XY4 x y, .op8XY5 x y, .op8XY6 x y, .op8XY7 x y, .op8XYE x y,
      .opDXYN x y n, .opFX1E x], decodeWord s.fetch ≠ .ok i) →
    (∀ (y : Idx) (kk : Byte), ∀ i ∈ [Instr.op6XKK 15 kk, .op7XKK 15 kk, .op8XY0 15 y, .op8XY1 15 y, .op8XY2 15 y,
      .op8XY3 15 y, .opCXKK 15 kk, .opFX07 15, .opFX0A 15, .opFX65 15], decodeWord s.fetch ≠ .ok i) →
    t.reg 15 = s.reg 15

/-- O18. 42_load_and_arithmetic.md R133. The count is the model's own field (log 4). -/
def Obligations.RandomTakesOneDraw : Prop :=
  ∀ s t : State, step s = .next t →
    ((∃ x kk, decodeWord s.fetch = .ok (.opCXKK x kk)) → t.draws = s.draws + 1) ∧
    ((∀ x kk, decodeWord s.fetch ≠ .ok (.opCXKK x kk)) → t.draws = s.draws)

/-- O19. 60_exceptions.md R200 to R202: the four kinds and their causes. The info is D13 (log 20), the field that
holds the outcome is the model's (log 1). -/
def Obligations.OutcomeNamesItsCause : Prop :=
  ∀ s t : State, step s = .next t →
    match decodeWord s.fetch with
    | .error _ => t.outcome = .unknownInstruction s.fetch s.pc
    | .ok i =>
      (t.outcome = .stackOverflow s.pc ∧ (∃ nnn, i = .op2NNN nnn) ∧ s.sp.val = 16) ∨
      (t.outcome = .stackUnderflow s.pc ∧ i = .op00EE ∧ s.sp.val = 0) ∨
      (t.outcome = .ok ∧ ¬ ((∃ nnn, i = .op2NNN nnn) ∧ s.sp.val = 16) ∧ ¬ (i = .op00EE ∧ s.sp.val = 0))

/-- O20. 60_exceptions.md R203 and R205: the program can make no progress, so the fault is kept. That the execute
phase changes nothing is the spec's own completion D12 (log 14). The address in the outcome is the spec's own choice
D13 (log 20), the field that holds it the model's (log 1). -/
def Obligations.StackFaultRepeatsForEver : Prop :=
  ∀ s t : State, step s = .next t → ¬ t.Safe →
    ∃ u, step t = .next u ∧ u.outcome = t.outcome ∧ u.pc = t.pc ∧ SameRegs t u ∧ SameBut [.delay, .sound] t u

/-- O21. 70_reset_and_hazards.md R246, the spec's own definition D21 of the end of a run (log 19). -/
def Obligations.SelfJumpEndsRun : Prop :=
  ∀ s : State, s.AtEnd →
    ∃ t, step s = .next t ∧ t.AtEnd ∧ t.pc = s.pc ∧ SameRegs s t ∧ SameBut [.delay, .sound] s t ∧
      t.dt.toNat = s.dt.toNat - 1 ∧ t.st.toNat = s.st.toNat - 1

/-- O22. 20_memory.md R43, R44 and R50: a program may modify itself and the next fetch returns the modified bytes. The
wrap is D3 (log 9). -/
def Obligations.StoredWordIsFetched : Prop :=
  ∀ (s : State) (a : Nat) (w : Word),
    ((s.writeByte a (highByte w)).writeByte (a + 1) (lowByte w)).readWord a = w ∧
    ∀ q, q % 4096 ≠ a % 4096 → q % 4096 ≠ (a + 1) % 4096 →
      ((s.writeByte a (highByte w)).writeByte (a + 1) (lowByte w)).readByte q = s.readByte q

/-- O23. The invariant is the model's (log 6, log 12) with 10_state.md R21. -/
def Obligations.ResetSatisfiesInvariant : Prop :=
  State.reset.Inv ∧ ∀ s : State, s.resetOp.Inv

/-- O24. 10_state.md R21 (every cell always holds 0 or 1, the spec's own choice D7, log 12) and 20_memory.md R40 and
R41 (no access leaves the 4096 bytes). -/
def Obligations.StepKeepsInvariant : Prop :=
  ∀ s t : State, s.Inv → step s = .next t → t.Inv

/-- O25. 70_reset_and_hazards.md R236: the moves of the host agent. -/
def Obligations.HostMovesKeepInvariant : Prop :=
  ∀ (m : HostMove) (s t : State) (r : HostResult), s.Inv → hostMove m s = .next (t, r) → t.Inv

/-- O26. 10_state.md R21: since reset writes 0, every cell always holds 0 or 1 (D7, log 12). It speaks of runs from
reset; the step lemma is HostMovesKeepInvariant. -/
def Obligations.ReachablePixelsAreZeroOrOne : Prop :=
  ∀ s : State, Reachable s →
    (∀ c ∈ s.readDisplay, c = 0 ∨ c = 1) ∧ s.readDisplay.length = 2048 ∧ ∀ c ∈ s.mem, c.1 < 4096

/-- O27. 10_state.md R12, for whatever table FONT is (log 3). -/
def Obligations.ResetMemoryIsFontThenZero : Prop :=
  (∀ a, (h : a < 80) → State.reset.readByte a = State.reset.font[a]) ∧
  (∀ a, 80 ≤ a → a < 4096 → State.reset.readByte a = 0) ∧
  ∀ s : State, (∀ a, (h : a < 80) → s.resetOp.readByte a = s.font[a]) ∧
    ∀ a, 80 ≤ a → a < 4096 → s.resetOp.readByte a = 0

/-- O28. 70_reset_and_hazards.md R230; that I, sp, the stack, the display and the keypad are cleared is the spec's own
reading D8 (log 5). -/
def Obligations.ResetSetsEveryRegister : Prop :=
  ∀ s : State, (∀ r, s.resetOp.reg r = 0) ∧ s.resetOp.i = 0 ∧ s.resetOp.pc = 0x200 ∧ s.resetOp.sp = 0 ∧
    (∀ j : Fin 16, s.resetOp.stack[j] = 0) ∧ s.resetOp.dt = 0 ∧ s.resetOp.st = 0 ∧ (∀ k, s.resetOp.cell k = 0) ∧
    (∀ k : Idx, s.resetOp.key[k] = false) ∧ s.resetOp.redrawPending = true

/-- O29. 20_memory.md R53 and 70_reset_and_hazards.md R233. That uncovered bytes are 0 is the spec's own choice D23
(log 23), the length recorded with ProgramTooLarge D13 (60_exceptions.md R206, log 20); the reset values are those of
D8 (log 5), and the font and the count of draws that a reset keeps are the model's (log 3, log 4). -/
def Obligations.LoadProgramPlacesImage : Prop :=
  (∀ (s : State) (bytes : List Byte), bytes.length ≤ 3584 →
    (s.loadProgram bytes).1 = .ok ∧
    (∀ j, (h : j < bytes.length) → (s.loadProgram bytes).2.readByte (0x200 + j) = bytes[j]) ∧
    (∀ a, (h : a < 80) → (s.loadProgram bytes).2.readByte a = s.font[a]) ∧
    (∀ a, 80 ≤ a → a < 4096 → (a < 0x200 ∨ 0x200 + bytes.length ≤ a) → (s.loadProgram bytes).2.readByte a = 0) ∧
    SameRegs s.resetOp (s.loadProgram bytes).2 ∧ SameBut [.memory] s.resetOp (s.loadProgram bytes).2 ∧
    (s.loadProgram bytes).2.pc = 0x200) ∧
  ∀ (s : State) (bytes : List Byte), 3584 < bytes.length →
    (s.loadProgram bytes).1 = .programTooLarge bytes.length ∧ (s.loadProgram bytes).2 = s.resetOp

/-- O30. 70_reset_and_hazards.md R237 to R239 (D22, D25: log 16, log 24). -/
def Obligations.HostAccessTouchesOnlyItsLatch : Prop :=
  ∀ (s : State) (k : Vector Bool 16),
    (∃ t, hostMove (.setKeys k) s = .next (t, .none) ∧ t.key = k ∧ t.pc = s.pc ∧ t.outcome = s.outcome ∧ t.font = s.font ∧
      SameRegs s t ∧ ∀ p : Part, p.Same s t) ∧
    (∃ t, hostMove .clearRedrawPending s = .next (t, .none) ∧ t.redrawPending = false ∧ t.pc = s.pc ∧
      t.outcome = s.outcome ∧ SameRegs s t ∧ SameBut [.redraw] s t) ∧
    (∃ cells, hostMove .readDisplay s = .next (s, .display cells) ∧ cells.length = 2048 ∧
      ∀ x < 64, ∀ y < 32, cells[y * 64 + x]? = some (s.cell (y * 64 + x))) ∧
    hostMove .readRedrawPending s = .next (s, .redrawPending s.redrawPending) ∧
    hostMove .readSoundTimer s = .next (s, .soundTimer s.st)

/-- O31. 41_control_flow.md R100, where it completes; the underflow is StackConditionsChangeNothing. The wrap is D4
(log 9). -/
def Obligations.ReturnPopsSavedAddress : Prop :=
  ∀ (s : State) (n : Fin 16), s.sp.val = n.val + 1 →
    ∃ t, exec .op00EE s = .next t ∧ t.outcome = .ok ∧ t.sp.val = n.val ∧
      t.pc.toNat = (s.stack[n].toNat + 2) % 65536 ∧ t.stack = s.stack ∧ SameRegs s t ∧ SameBut [.stack] s t

/-- O32. 41_control_flow.md R102, where it completes; the overflow is StackConditionsChangeNothing. -/
def Obligations.CallPushesItsOwnAddress : Prop :=
  ∀ (s : State) (nnn : BitVec 12) (n : Fin 16), s.sp.val = n.val →
    ∃ t, exec (.op2NNN nnn) s = .next t ∧ t.outcome = .ok ∧ t.sp.val = n.val + 1 ∧ t.pc.toNat = nnn.toNat ∧
      t.stack[n] = s.pc ∧ (∀ j : Fin 16, j ≠ n → t.stack[j] = s.stack[j]) ∧ SameRegs s t ∧ SameBut [.stack] s t

/-- O33. 60_exceptions.md R202 and R203: where the two forms end in a condition. That nothing at all changes is the
spec's own completion D12 (log 14); the address recorded with the outcome is 60_exceptions.md R206, the spec's own
choice D13 (log 20), and the field that holds the outcome is the model's (log 1). -/
def Obligations.StackConditionsChangeNothing : Prop :=
  (∀ (s : State) (nnn : BitVec 12), s.sp.val = 16 →
    ∃ t, exec (.op2NNN nnn) s = .next t ∧ t.outcome = .stackOverflow s.pc ∧ t.pc = s.pc ∧ SameRegs s t ∧
      SameBut [] s t) ∧
  ∀ s : State, s.sp.val = 0 →
    ∃ t, exec .op00EE s = .next t ∧ t.outcome = .stackUnderflow s.pc ∧ t.pc = s.pc ∧ SameRegs s t ∧ SameBut [] s t

/-- O34. 41_control_flow.md R101. -/
def Obligations.JumpGoesToAddress : Prop :=
  ∀ (s : State) (nnn : BitVec 12), ∃ t, exec (.op1NNN nnn) s = .next t ∧ t.outcome = .ok ∧ t.pc.toNat = nnn.toNat ∧
    SameRegs s t ∧ SameBut [] s t

/-- O35. 41_control_flow.md R108; that the sum is not masked to 12 bits is the spec's own reading D4 (log 9). -/
def Obligations.IndexedJumpAddsRegisterZero : Prop :=
  ∀ (s : State) (nnn : BitVec 12), ∃ t, exec (.opBNNN nnn) s = .next t ∧ t.outcome = .ok ∧
    t.pc.toNat = nnn.toNat + (s.reg 0).toNat ∧ SameRegs s t ∧ SameBut [] s t

/-- O36. 41_control_flow.md R103 and R104. -/
def Obligations.ByteSkipsCompare : Prop :=
  ∀ (s : State) (x : Idx) (kk : Byte),
    (∃ t, exec (.op3XKK x kk) s = .next t ∧ t.outcome = .ok ∧
      PcPlus (if (s.reg x).toNat = kk.toNat then 4 else 2) s t ∧ SameRegs s t ∧ SameBut [] s t) ∧
    ∃ t, exec (.op4XKK x kk) s = .next t ∧ t.outcome = .ok ∧
      PcPlus (if (s.reg x).toNat ≠ kk.toNat then 4 else 2) s t ∧ SameRegs s t ∧ SameBut [] s t

/-- O37. 41_control_flow.md R105 and R106. -/
def Obligations.RegisterSkipsCompare : Prop :=
  ∀ (s : State) (x y : Idx),
    (∃ t, exec (.op5XY0 x y) s = .next t ∧ t.outcome = .ok ∧
      PcPlus (if (s.reg x).toNat = (s.reg y).toNat then 4 else 2) s t ∧ SameRegs s t ∧ SameBut [] s t ∧
      (x = y → PcPlus 4 s t)) ∧
    ∃ t, exec (.op9XY0 x y) s = .next t ∧ t.outcome = .ok ∧
      PcPlus (if (s.reg x).toNat ≠ (s.reg y).toNat then 4 else 2) s t ∧ SameRegs s t ∧ SameBut [] s t ∧
      (x = y → PcPlus 2 s t)

/-- O38. 42_load_and_arithmetic.md R120; X = 15 included. -/
def Obligations.LoadByteSetsRegister : Prop :=
  ∀ (s : State) (x : Idx) (kk : Byte), ∃ t, exec (.op6XKK x kk) s = .next t ∧ t.reg x = kk ∧ WritesOnly x s t

/-- O39. 42_load_and_arithmetic.md R121. -/
def Obligations.AddByteWrapsWithoutFlag : Prop :=
  ∀ (s : State) (x : Idx) (kk : Byte), ∃ t, exec (.op7XKK x kk) s = .next t ∧
    (t.reg x).toNat = ((s.reg x).toNat + kk.toNat) % 256 ∧ WritesOnly x s t

/-- O40. 42_load_and_arithmetic.md R122 to R125, with X = Y included. -/
def Obligations.CopyAndLogicWriteOnlyDestination : Prop :=
  ∀ (s : State) (x y : Idx),
    (∃ t, exec (.op8XY0 x y) s = .next t ∧ t.reg x = s.reg y ∧ WritesOnly x s t) ∧
    (∃ t, exec (.op8XY1 x y) s = .next t ∧ WritesOnly x s t ∧
      ∀ j, (t.reg x).getLsbD j = ((s.reg x).getLsbD j || (s.reg y).getLsbD j)) ∧
    (∃ t, exec (.op8XY2 x y) s = .next t ∧ WritesOnly x s t ∧
      ∀ j, (t.reg x).getLsbD j = ((s.reg x).getLsbD j && (s.reg y).getLsbD j)) ∧
    ∃ t, exec (.op8XY3 x y) s = .next t ∧ WritesOnly x s t ∧
      ∀ j, (t.reg x).getLsbD j = ((s.reg x).getLsbD j ^^ (s.reg y).getLsbD j)

/-- O41. 42_load_and_arithmetic.md R126; what happens with X = 15 is the spec's own reading D2 (log 8). -/
def Obligations.AddSetsCarry : Prop :=
  ∀ (s : State) (x y : Idx), ∃ t, exec (.op8XY4 x y) s = .next t ∧
    (t.reg x).toNat = ((s.reg x).toNat + (s.reg y).toNat) % 256 ∧
    (x ≠ 15 → (t.reg 15).toNat = if (s.reg x).toNat + (s.reg y).toNat > 255 then 1 else 0) ∧
    WritesOnlyAndFlag x s t

/-- O42. 42_load_and_arithmetic.md R127 and R129, with every case of X = 15 and Y = 15 that the rules spell out; that
order is the spec's own reading D2 (log 8). -/
def Obligations.SubtractSetsNoBorrow : Prop :=
  ∀ (s : State) (x y : Idx),
    (∃ t, exec (.op8XY5 x y) s = .next t ∧ WritesOnlyAndFlag x s t ∧
      ∃ f, f = (if (s.reg y).toNat > (s.reg x).toNat then 0 else 1) ∧ (x ≠ 15 → (t.reg 15).toNat = f) ∧
        (t.reg x).toNat =
          ((if x = 15 then f else (s.reg x).toNat) + 256 - (if y = 15 then f else (s.reg y).toNat)) % 256) ∧
    ∃ t, exec (.op8XY7 x y) s = .next t ∧ WritesOnlyAndFlag x s t ∧
      ∃ f, f = (if (s.reg x).toNat > (s.reg y).toNat then 0 else 1) ∧ (x ≠ 15 → (t.reg 15).toNat = f) ∧
        (t.reg x).toNat =
          ((if y = 15 then f else (s.reg y).toNat) + 256 - (if x = 15 then f else (s.reg x).toNat)) % 256

/-- O43. 42_load_and_arithmetic.md R128 and R130; X = 15 is the spec's own reading D2 (log 8). -/
def Obligations.ShiftsMoveOneBitToFlag : Prop :=
  ∀ (s : State) (x y : Idx),
    (∃ t, exec (.op8XY6 x y) s = .next t ∧ WritesOnlyAndFlag x s t ∧
      (x ≠ 15 → (t.reg x).toNat = (s.reg x).toNat / 2 ∧ (t.reg 15).toNat = (s.reg x).toNat % 2) ∧
      (x = 15 → (t.reg 15).toNat = 0)) ∧
    ∃ t, exec (.op8XYE x y) s = .next t ∧ WritesOnlyAndFlag x s t ∧
      (x ≠ 15 → (t.reg x).toNat = 2 * (s.reg x).toNat % 256 ∧ (t.reg 15).toNat = (s.reg x).toNat / 128) ∧
      (x = 15 → (t.reg 15).toNat = 2 * ((s.reg x).toNat / 128))

/-- O44. 42_load_and_arithmetic.md R132, and R133 for the one draw. The draw is a free value, so the statement holds
whatever it is; the count of draws that picks it is the model's own field (log 4). -/
def Obligations.RandomIsMaskedDraw : Prop :=
  ∀ (s : State) (x : Idx) (kk : Byte), ∃ t, exec (.opCXKK x kk) s = .next t ∧ t.outcome = .ok ∧ PcPlus 2 s t ∧
    (∀ j, (t.reg x).getLsbD j = ((Config.rnd s.draws).getLsbD j && kk.getLsbD j)) ∧ (kk = 0 → t.reg x = 0) ∧
    t.draws = s.draws + 1 ∧ RegsBut (· = x) s t ∧ SameBut [.draws] s t

/-- O45. 43_index_and_memory.md R140. -/
def Obligations.LoadIndexSetsIndex : Prop :=
  ∀ (s : State) (nnn : BitVec 12), ∃ t, exec (.opANNN nnn) s = .next t ∧ t.outcome = .ok ∧ t.i.toNat = nnn.toNat ∧
    PcPlus 2 s t ∧ SameRegs s t ∧ SameBut [.index] s t

/-- O46. 43_index_and_memory.md R141; the exact sum is 90_conflicts.md C7, X = 15 the spec's own reading D2 (log 8),
the 16 bits D4 (log 9). -/
def Obligations.AddToIndexFlagsEndOfMemory : Prop :=
  ∀ (s : State) (x : Idx), ∃ t, exec (.opFX1E x) s = .next t ∧ t.outcome = .ok ∧ PcPlus 2 s t ∧
    RegsBut (· = 15) s t ∧ SameBut [.index] s t ∧
    ∃ f, f = (if s.i.toNat + (s.reg x).toNat > 0xFFF then 1 else 0) ∧ (t.reg 15).toNat = f ∧
      t.i.toNat = (s.i.toNat + if x = 15 then f else (s.reg x).toNat) % 65536

/-- O47. 43_index_and_memory.md R142; values above 15 are the spec's own choice D6 (log 11). -/
def Obligations.GlyphAddressIsFiveTimesDigit : Prop :=
  ∀ (s : State) (x : Idx), ∃ t, exec (.opFX29 x) s = .next t ∧ t.outcome = .ok ∧ t.i.toNat = (s.reg x).toNat * 5 ∧
    ((s.reg x).toNat < 16 → t.i.toNat + 4 < 80) ∧ PcPlus 2 s t ∧ SameRegs s t ∧ SameBut [.index] s t

/-- O48. 43_index_and_memory.md R143: the digits are the numbers below 10 with 100 h + 10 t + o = V[X]; the addresses
are computed as the meaning does, I + j, and reduced modulo 4096 (D3, log 9). -/
def Obligations.StoreDecimalDigits : Prop :=
  ∀ (s : State) (x : Idx), ∃ t, exec (.opFX33 x) s = .next t ∧ t.outcome = .ok ∧ PcPlus 2 s t ∧
    (t.readByte (s.elemAddr 0)).toNat * 100 + (t.readByte (s.elemAddr 1)).toNat * 10 +
      (t.readByte (s.elemAddr 2)).toNat = (s.reg x).toNat ∧
    (t.readByte (s.elemAddr 1)).toNat < 10 ∧ (t.readByte (s.elemAddr 2)).toNat < 10 ∧
    (∀ a, (∀ j < 3, a % 4096 ≠ s.elemAddr j % 4096) → t.readByte a = s.readByte a) ∧
    s.elemAddr 0 = s.i.toNat ∧ s.elemAddr 1 = s.i.toNat + 1 ∧ s.elemAddr 2 = s.i.toNat + 2 ∧
    SameRegs s t ∧ SameBut [.memory] s t

/-- O49. 43_index_and_memory.md R144; the addresses are I + j of the state before, reduced modulo 4096 (D3, D4, log
9). -/
def Obligations.StoreRegistersFromIndex : Prop :=
  ∀ (s : State) (x : Idx), ∃ t, exec (.opFX55 x) s = .next t ∧ t.outcome = .ok ∧ PcPlus 2 s t ∧
    (∀ j : Idx, j ≤ x → t.readByte (s.elemAddr j.val) = s.reg j) ∧
    (∀ a, (∀ j : Idx, j ≤ x → a % 4096 ≠ s.elemAddr j.val % 4096) → t.readByte a = s.readByte a) ∧
    (∀ j, s.elemAddr j = s.i.toNat + j) ∧
    t.i.toNat = (s.i.toNat + x.val + 1) % 65536 ∧ SameRegs s t ∧ SameBut [.memory, .index] s t

/-- O50. 43_index_and_memory.md R145 (D3, D4, log 9); with X = 15 VF is loaded as a plain register. -/
def Obligations.LoadRegistersFromIndex : Prop :=
  ∀ (s : State) (x : Idx), ∃ t, exec (.opFX65 x) s = .next t ∧ t.outcome = .ok ∧ PcPlus 2 s t ∧
    (∀ j : Idx, j ≤ x → t.reg j = s.readByte (s.i.toNat + j.val)) ∧ RegsBut (· ≤ x) s t ∧
    t.i.toNat = (s.i.toNat + x.val + 1) % 65536 ∧ SameBut [.index] s t

/-- O51. 44_display.md R160. -/
def Obligations.ClearTurnsEveryPixelOff : Prop :=
  ∀ s : State, ∃ t, exec .op00E0 s = .next t ∧ t.outcome = .ok ∧ (∀ k, t.cell k = 0) ∧ t.redrawPending = true ∧
    PcPlus 2 s t ∧ SameRegs s t ∧ SameBut [.display, .redraw] s t

/-- O52. 44_display.md R162 without its loops: no pixel is toggled twice and none outside the display is written, for
every N from 0 to 15, every I and every X and Y, 15 included. The toggle c ^ 1 is the spec's own choice D7 (log 12), X
= 15 and Y = 15 are D2 (log 8). -/
def Obligations.DrawTogglesExactlyTouchedPixels : Prop :=
  ∀ (s : State) (x y : Idx) (n : Fin 16), ∃ t, exec (.opDXYN x y n) s = .next t ∧ t.outcome = .ok ∧ PcPlus 2 s t ∧
    (∀ px < 64, ∀ py < 32,
      (Touches s x y n.val px py → t.cell (py * 64 + px) = s.cell (py * 64 + px) ^^^ 1) ∧
      (¬ Touches s x y n.val px py → t.cell (py * 64 + px) = s.cell (py * 64 + px))) ∧
    (∀ k ≥ 2048, t.cell k = s.cell k) ∧
    ((∃ px < 64, ∃ py < 32, Touches s x y n.val px py ∧ s.cell (py * 64 + px) ≠ 0) → t.reg 15 = 1) ∧
    ((∀ px < 64, ∀ py < 32, Touches s x y n.val px py → s.cell (py * 64 + px) = 0) → t.reg 15 = 0) ∧
    t.redrawPending = true ∧ RegsBut (· = 15) s t ∧ SameBut [.display, .redraw] s t

/-- O53. The source's own property, 95_test_vectors.md S5. With X = 15 or Y = 15 the second origin is the VF the first
draw wrote, so those forms are not erased. -/
def Obligations.DrawTwiceErases : Prop :=
  ∀ (s t u : State) (x y : Idx) (n : Fin 16), x ≠ 15 → y ≠ 15 → exec (.opDXYN x y n) s = .next t →
    exec (.opDXYN x y n) t = .next u →
    (∀ k, u.cell k = s.cell k) ∧
    ((∀ k, s.cell k = 0) → (∃ px < 64, ∃ py < 32, Touches s x y n.val px py) → t.reg 15 = 0 ∧ u.reg 15 = 1)

/-- O54. 45_keypad_and_timers.md R170 and R171; that the low four bits select the key is the spec's own choice D5 (log
10). -/
def Obligations.KeySkipsReadLatch : Prop :=
  ∀ (s : State) (x k : Idx), k.val = (s.reg x).toNat % 16 →
    (∃ t, exec (.opEX9E x) s = .next t ∧ t.outcome = .ok ∧ PcPlus (if s.key[k] then 4 else 2) s t ∧ SameRegs s t ∧
      SameBut [] s t) ∧
    ∃ t, exec (.opEXA1 x) s = .next t ∧ t.outcome = .ok ∧ PcPlus (if s.key[k] then 2 else 4) s t ∧ SameRegs s t ∧
      SameBut [] s t

/-- O55. 45_keypad_and_timers.md R172; that a waiting step reports OK is the spec's own choice D20 (log 20). -/
def Obligations.KeyWaitTakesHighestKey : Prop :=
  (∀ (s : State) (x k : Idx), s.key[k] = true → (∀ j : Idx, k < j → s.key[j] = false) →
    ∃ t, exec (.opFX0A x) s = .next t ∧ (t.reg x).toNat = k.val ∧ WritesOnly x s t) ∧
  ∀ (s : State) (x : Idx), (∀ j : Idx, s.key[j] = false) →
    ∃ t, exec (.opFX0A x) s = .next t ∧ t.outcome = .ok ∧ t.pc = s.pc ∧ SameRegs s t ∧ SameBut [] s t

/-- O56. 45_keypad_and_timers.md R173. -/
def Obligations.DelayTimerIsReadBeforeTick : Prop :=
  ∀ (s : State) (x : Idx), (∃ t, exec (.opFX07 x) s = .next t ∧ t.reg x = s.dt ∧ WritesOnly x s t) ∧
    (decodeWord s.fetch = .ok (.opFX07 x) →
      ∃ u, step s = .next u ∧ u.reg x = s.dt ∧ u.dt.toNat = s.dt.toNat - 1)

/-- O57. 45_keypad_and_timers.md R174 and R175. -/
def Obligations.TimerWritesLoseOneInTheSameStep : Prop :=
  ∀ (s : State) (x : Idx),
    (∃ t, exec (.opFX15 x) s = .next t ∧ t.outcome = .ok ∧ t.dt = s.reg x ∧ PcPlus 2 s t ∧ SameRegs s t ∧
      SameBut [.delay] s t) ∧
    (∃ t, exec (.opFX18 x) s = .next t ∧ t.outcome = .ok ∧ t.st = s.reg x ∧ PcPlus 2 s t ∧ SameRegs s t ∧
      SameBut [.sound] s t) ∧
    (decodeWord s.fetch = .ok (.opFX15 x) → ∃ u, step s = .next u ∧ u.dt.toNat = (s.reg x).toNat - 1) ∧
    (decodeWord s.fetch = .ok (.opFX18 x) → ∃ u, step s = .next u ∧ u.st.toNat = (s.reg x).toNat - 1)
end

