-- ==== Sys2Proof/Laws/Cells.lean ====
section
/-! SUPPORT. The laws of sparse byte storage: a read after a write, and that every operation keeps the canonical form. -/

namespace Sys2Proof.Machine

variable {d : Nat → Byte} {n : Nat} {m : List Host.Cell} {a b : Nat} {v : Byte}

@[simp] theorem Cells.read_nil : Cells.read d [] a = d a := rfl

theorem Cells.read_erase_same (d : Nat → Byte) (m : List Host.Cell) (a : Nat) :
    Cells.read d (Cells.erase a m) a = d a := by
  induction m with
  | nil => rfl
  | cons c m ih =>
    by_cases h : c.1 = a
    · simpa [Cells.erase, h] using ih
    · simpa [Cells.erase, h, Cells.read] using ih

theorem Cells.read_erase_other (d : Nat → Byte) (m : List Host.Cell) (h : b ≠ a) :
    Cells.read d (Cells.erase a m) b = Cells.read d m b := by
  induction m with
  | nil => rfl
  | cons c m ih =>
    by_cases hc : c.1 = a
    · have : c.1 ≠ b := fun e => h (e.symm.trans hc)
      simp only [Cells.read, this, if_false]
      simpa [Cells.erase, hc] using ih
    · have e : Cells.erase a (c :: m) = c :: Cells.erase a m := by simp [Cells.erase, hc]
      simp only [e, Cells.read, ih]

theorem Cells.read_insert_same (hm : ∀ c ∈ m, c.1 ≠ a) : Cells.read d (Cells.insert a v m) a = v := by
  induction m with
  | nil => simp [Cells.insert, Cells.read]
  | cons c m ih =>
    have hc := hm c List.mem_cons_self
    have ht := ih fun e he => hm e (List.mem_cons_of_mem _ he)
    unfold Cells.insert
    split <;> simp [Cells.read, hc, ht]

theorem Cells.read_insert_other (h : b ≠ a) :
    Cells.read d (Cells.insert a v m) b = Cells.read d m b := by
  induction m with
  | nil => simp [Cells.insert, Cells.read, h.symm]
  | cons c m ih =>
    unfold Cells.insert
    split
    · simp [Cells.read, h.symm]
    · simp [Cells.read, ih]

theorem Cells.not_mem_erase : ∀ c ∈ Cells.erase a m, c.1 ≠ a := by
  simp [Cells.erase]

/-- A read after a write: the value written at its address, the old byte elsewhere; on any list, canonical or not. -/
theorem Cells.read_write (d : Nat → Byte) (m : List Host.Cell) (a b : Nat) (v : Byte) :
    Cells.read d (Cells.write d m a v) b = if b = a then v else Cells.read d m b := by
  unfold Cells.write
  by_cases h : b = a
  · subst h
    by_cases hv : v = d b
    · simp [hv, Cells.read_erase_same]
    · simp [hv, Cells.read_insert_same Cells.not_mem_erase]
  · by_cases hv : v = d a
    · rw [if_pos hv, if_neg h, Cells.read_erase_other d m h]
    · rw [if_neg hv, if_neg h, Cells.read_insert_other h, Cells.read_erase_other d m h]

theorem Cells.mem_insert {c : Host.Cell} : c ∈ Cells.insert a v m ↔ c = (a, v) ∨ c ∈ m := by
  induction m with
  | nil => simp [Cells.insert]
  | cons e m ih =>
    unfold Cells.insert
    split
    · simp
    · simp only [List.mem_cons, ih]; tauto

theorem Cells.mem_write {c : Host.Cell} (h : c ∈ Cells.write d m a v) : c = (a, v) ∨ c ∈ m := by
  unfold Cells.write at h
  split at h
  · exact .inr (List.mem_of_mem_filter h)
  · exact (Cells.mem_insert.mp h).imp_right List.mem_of_mem_filter

theorem Cells.pairwise_insert (hm : m.Pairwise fun c e => c.1 < e.1) (ha : ∀ c ∈ m, c.1 ≠ a) :
    (Cells.insert a v m).Pairwise fun c e => c.1 < e.1 := by
  induction m with
  | nil => simp [Cells.insert]
  | cons c m ih =>
    obtain ⟨hc, hm'⟩ := List.pairwise_cons.mp hm
    unfold Cells.insert
    split
    · rename_i hlt
      refine List.pairwise_cons.mpr ⟨fun e he => ?_, hm⟩
      rcases List.mem_cons.mp he with rfl | he
      · exact hlt
      · exact hlt.trans (hc e he)
    · rename_i hge
      have hne := ha c List.mem_cons_self
      refine List.pairwise_cons.mpr ⟨fun e he => ?_, ih hm' fun e he => ha e (List.mem_cons_of_mem _ he)⟩
      rcases Cells.mem_insert.mp he with rfl | he
      · show c.1 < a; omega
      · exact hc e he

/-- A write keeps the canonical form. -/
theorem Cells.wf_write (h : Cells.wf d n m) (ha : a < n) : Cells.wf d n (Cells.write d m a v) := by
  have hs : (Cells.erase a m).Pairwise fun c e => c.1 < e.1 := h.1.filter _
  unfold Cells.write
  split
  · exact ⟨hs, fun c hc => h.2 c (List.mem_of_mem_filter hc)⟩
  · rename_i hv
    refine ⟨Cells.pairwise_insert hs Cells.not_mem_erase, fun c hc => ?_⟩
    rcases Cells.mem_insert.mp hc with rfl | hc
    · exact ⟨ha, hv⟩
    · exact h.2 c (List.mem_of_mem_filter hc)

/-- In canonical form equal contents are equal lists. -/
theorem Cells.ext_wf {m' : List Host.Cell} (h : Cells.wf d n m) (h' : Cells.wf d n m')
    (he : ∀ a, Cells.read d m a = Cells.read d m' a) : m = m' := by
  have read_mem : ∀ {l : List Host.Cell}, (l.Pairwise fun c e => c.1 < e.1) → ∀ c ∈ l, Cells.read d l c.1 = c.2 := by
    intro l hl
    induction l with
    | nil => simp
    | cons e l ih =>
      obtain ⟨h1, h2⟩ := List.pairwise_cons.mp hl
      intro c hc
      rcases List.mem_cons.mp hc with rfl | hc
      · simp [Cells.read]
      · have := h1 c hc
        simp [Cells.read, Nat.ne_of_lt this, ih h2 c hc]
  have mem_read : ∀ {l : List Host.Cell} {a : Nat}, Cells.read d l a ≠ d a → (a, Cells.read d l a) ∈ l := by
    intro l a hne
    induction l with
    | nil => exact absurd rfl hne
    | cons e l ih =>
      by_cases hea : e.1 = a
      · subst hea; simp [Cells.read]
      · simp only [Cells.read, hea, if_false] at hne ⊢
        exact List.mem_cons_of_mem _ (ih hne)
  have sub : ∀ {l l' : List Host.Cell}, Cells.wf d n l → Cells.wf d n l' →
      (∀ a, Cells.read d l a = Cells.read d l' a) → ∀ c ∈ l, c ∈ l' := by
    intro l l' hl _ hr c hc
    have h1 := read_mem hl.1 c hc
    have h2 : Cells.read d l' c.1 ≠ d c.1 := by rw [← hr, h1]; exact (hl.2 c hc).2
    have h3 := mem_read h2
    rwa [← hr, h1] at h3
  have hperm : m.Perm m' := by
    refine (List.perm_ext_iff_of_nodup ?_ ?_).mpr fun c => ⟨sub h h' he c, sub h' h (fun a => (he a).symm) c⟩
    · exact h.1.imp fun hlt heq => by simp [heq] at hlt
    · exact h'.1.imp fun hlt heq => by simp [heq] at hlt
  exact hperm.eq_of_pairwise (fun c e _ _ h1 h2 => absurd h1 (Nat.lt_asymm h2)) h.1 h'.1

end Sys2Proof.Machine
end

