-- ==== Sys2Proof/Laws/Encoding.lean ====
section
/-! SUPPORT. Words and their fields as numbers: what a format puts together, and what a field takes apart. -/

namespace Sys2Proof.Laws

/-- Two bit strings side by side, as a number. -/
theorem append_toNat {w v : Nat} (a : BitVec w) (b : BitVec v) : (a ++ b).toNat = a.toNat * 2 ^ v + b.toNat := by
  rw [BitVec.toNat_append, Nat.shiftLeft_eq, Nat.mul_comm, Nat.two_pow_add_eq_or_of_lt b.isLt]

theorem nibble_toNat (x : Fin 16) : (nibble x).toNat = x.val := rfl

theorem formatA_toNat (c : BitVec 4) (nnn : BitVec 12) : (formatA c nnn).toNat = c.toNat * 4096 + nnn.toNat :=
  append_toNat c nnn

theorem formatXK_toNat (c : BitVec 4) (x : Idx) (kk : Byte) :
    (formatXK c x kk).toNat = c.toNat * 4096 + x.val * 256 + kk.toNat := by
  have h : (formatXK c x kk).toNat = (c ++ nibble x).toNat * 2 ^ 8 + kk.toNat := append_toNat (c ++ nibble x) kk
  rw [h, append_toNat, nibble_toNat]; omega

theorem formatXY_toNat (c : BitVec 4) (x y : Idx) (n : BitVec 4) :
    (formatXY c x y n).toNat = c.toNat * 4096 + x.val * 256 + y.val * 16 + n.toNat := by
  have h : (formatXY c x y n).toNat = (c ++ nibble x ++ nibble y).toNat * 2 ^ 4 + n.toNat :=
    append_toNat (c ++ nibble x ++ nibble y) n
  rw [h, append_toNat, append_toNat, nibble_toNat, nibble_toNat]; omega

theorem wordOfBytes_toNat (hi lo : Byte) : (wordOfBytes hi lo).toNat = hi.toNat * 256 + lo.toNat :=
  append_toNat hi lo

theorem fieldClass_val (w : Word) : (fieldClass w).val = w.toNat / 4096 := by
  have := w.isLt
  simp [fieldClass, Nat.shiftRight_eq_div_pow]; omega

theorem fieldX_val (w : Word) : (fieldX w).val = w.toNat / 256 % 16 := by
  simp [fieldX, Nat.shiftRight_eq_div_pow]

theorem fieldY_val (w : Word) : (fieldY w).val = w.toNat / 16 % 16 := by
  simp [fieldY, Nat.shiftRight_eq_div_pow]

theorem fieldN_val (w : Word) : (fieldN w).val = w.toNat % 16 := by
  simp [fieldN]

theorem fieldKK_toNat (w : Word) : (fieldKK w).toNat = w.toNat % 256 := by
  simp [fieldKK]

theorem fieldNNN_toNat (w : Word) : (fieldNNN w).toNat = w.toNat % 4096 := by
  simp [fieldNNN]

theorem highByte_toNat (w : Word) : (highByte w).toNat = w.toNat / 256 := by
  have := w.isLt
  simp [highByte, Nat.shiftRight_eq_div_pow]; omega

theorem lowByte_toNat (w : Word) : (lowByte w).toNat = w.toNat % 256 := by
  simp [lowByte]

/-- The two bytes of a word put together are the word. -/
theorem wordOfBytes_bytes (w : Word) : wordOfBytes (highByte w) (lowByte w) = w := by
  apply BitVec.eq_of_toNat_eq
  rw [wordOfBytes_toNat, highByte_toNat, lowByte_toNat]; omega

/-- The fields of a word of format A. -/
theorem fields_formatA (c : BitVec 4) (nnn : BitVec 12) :
    fieldClass (formatA c nnn) = c.toFin ∧ fieldNNN (formatA c nnn) = nnn := by
  have := nnn.isLt
  refine ⟨Fin.ext ?_, BitVec.eq_of_toNat_eq ?_⟩
  · rw [fieldClass_val, formatA_toNat]; show _ = c.toNat; omega
  · rw [fieldNNN_toNat, formatA_toNat]; omega

/-- The fields of a word of format XK or XS. -/
theorem fields_formatXK (c : BitVec 4) (x : Idx) (kk : Byte) :
    fieldClass (formatXK c x kk) = c.toFin ∧ fieldX (formatXK c x kk) = x ∧ fieldKK (formatXK c x kk) = kk := by
  have := x.isLt
  have := kk.isLt
  refine ⟨Fin.ext ?_, Fin.ext ?_, BitVec.eq_of_toNat_eq ?_⟩
  · rw [fieldClass_val, formatXK_toNat]; show _ = c.toNat; omega
  · rw [fieldX_val, formatXK_toNat]; omega
  · rw [fieldKK_toNat, formatXK_toNat]; omega

/-- The fields of a word of format XY or XYN. -/
theorem fields_formatXY (c : BitVec 4) (x y : Idx) (n : BitVec 4) :
    fieldClass (formatXY c x y n) = c.toFin ∧ fieldX (formatXY c x y n) = x ∧ fieldY (formatXY c x y n) = y ∧
      fieldN (formatXY c x y n) = n.toFin := by
  have := x.isLt
  have := y.isLt
  have := n.isLt
  refine ⟨Fin.ext ?_, Fin.ext ?_, Fin.ext ?_, Fin.ext ?_⟩
  · rw [fieldClass_val, formatXY_toNat]; show _ = c.toNat; omega
  · rw [fieldX_val, formatXY_toNat]; omega
  · rw [fieldY_val, formatXY_toNat]; omega
  · rw [fieldN_val, formatXY_toNat]; show _ = n.toNat; omega

/-- A word is the format A of its fields. -/
theorem formatA_fields {w : Word} {c : BitVec 4} (hc : (fieldClass w).val = c.toNat) :
    formatA c (fieldNNN w) = w := by
  apply BitVec.eq_of_toNat_eq
  rw [formatA_toNat, ← hc, fieldClass_val, fieldNNN_toNat]; omega

/-- A word is the format XK of its fields. -/
theorem formatXK_fields {w : Word} {c : BitVec 4} {kk : Byte} (hc : (fieldClass w).val = c.toNat)
    (hk : fieldKK w = kk) : formatXK c (fieldX w) kk = w := by
  apply BitVec.eq_of_toNat_eq
  rw [formatXK_toNat, ← hc, ← hk, fieldClass_val, fieldX_val, fieldKK_toNat]; omega

/-- A word is the format XY of its fields. -/
theorem formatXY_fields {w : Word} {c n : BitVec 4} (hc : (fieldClass w).val = c.toNat)
    (hn : (fieldN w).val = n.toNat) : formatXY c (fieldX w) (fieldY w) n = w := by
  apply BitVec.eq_of_toNat_eq
  rw [formatXY_toNat, ← hc, ← hn, fieldClass_val, fieldX_val, fieldY_val, fieldN_val]; omega

/-! The decoder by class (30_encoding.md R63). -/

theorem decodeWord_class0 (w : Word) (h : fieldClass w = 0x0) : decodeWord w = decodeClass0 w := by
  rw [decodeWord, h]; rfl
theorem decodeWord_class1 (w : Word) (h : fieldClass w = 0x1) : decodeWord w = .ok (.op1NNN (fieldNNN w)) := by
  rw [decodeWord, h]; rfl
theorem decodeWord_class2 (w : Word) (h : fieldClass w = 0x2) : decodeWord w = .ok (.op2NNN (fieldNNN w)) := by
  rw [decodeWord, h]; rfl
theorem decodeWord_class3 (w : Word) (h : fieldClass w = 0x3) : decodeWord w = .ok (.op3XKK (fieldX w) (fieldKK w)) := by
  rw [decodeWord, h]; rfl
theorem decodeWord_class4 (w : Word) (h : fieldClass w = 0x4) : decodeWord w = .ok (.op4XKK (fieldX w) (fieldKK w)) := by
  rw [decodeWord, h]; rfl
theorem decodeWord_class5 (w : Word) (h : fieldClass w = 0x5) : decodeWord w = decodeClass5 w := by
  rw [decodeWord, h]; rfl
theorem decodeWord_class6 (w : Word) (h : fieldClass w = 0x6) : decodeWord w = .ok (.op6XKK (fieldX w) (fieldKK w)) := by
  rw [decodeWord, h]; rfl
theorem decodeWord_class7 (w : Word) (h : fieldClass w = 0x7) : decodeWord w = .ok (.op7XKK (fieldX w) (fieldKK w)) := by
  rw [decodeWord, h]; rfl
theorem decodeWord_class8 (w : Word) (h : fieldClass w = 0x8) : decodeWord w = decodeClass8 w := by
  rw [decodeWord, h]; rfl
theorem decodeWord_class9 (w : Word) (h : fieldClass w = 0x9) : decodeWord w = decodeClass9 w := by
  rw [decodeWord, h]; rfl
theorem decodeWord_classA (w : Word) (h : fieldClass w = 0xA) : decodeWord w = .ok (.opANNN (fieldNNN w)) := by
  rw [decodeWord, h]; rfl
theorem decodeWord_classB (w : Word) (h : fieldClass w = 0xB) : decodeWord w = .ok (.opBNNN (fieldNNN w)) := by
  rw [decodeWord, h]; rfl
theorem decodeWord_classC (w : Word) (h : fieldClass w = 0xC) : decodeWord w = .ok (.opCXKK (fieldX w) (fieldKK w)) := by
  rw [decodeWord, h]; rfl
theorem decodeWord_classD (w : Word) (h : fieldClass w = 0xD) : decodeWord w = .ok (.opDXYN (fieldX w) (fieldY w) (fieldN w)) := by
  rw [decodeWord, h]; rfl
theorem decodeWord_classE (w : Word) (h : fieldClass w = 0xE) : decodeWord w = decodeClassE w := by
  rw [decodeWord, h]; rfl
theorem decodeWord_classF (w : Word) (h : fieldClass w = 0xF) : decodeWord w = decodeClassF w := by
  rw [decodeWord, h]; rfl

end Sys2Proof.Laws
end

