-- ==== Sys2Proof/Laws/State.lean ====
section
/-! SUPPORT. What each update of the state does to each field, and to each accessor that does not read the field it
changes: all true by unfolding, so that no later proof unfolds a record update. -/

namespace Sys2Proof.Machine

variable (s : State)

@[simp] theorem State.setReg_v (x : Idx) (b : Byte) : (s.setReg x b).v = s.v.set x b := rfl
@[simp] theorem State.setReg_i (x : Idx) (b : Byte) : (s.setReg x b).i = s.i := rfl
@[simp] theorem State.setReg_pc (x : Idx) (b : Byte) : (s.setReg x b).pc = s.pc := rfl
@[simp] theorem State.setReg_stack (x : Idx) (b : Byte) : (s.setReg x b).stack = s.stack := rfl
@[simp] theorem State.setReg_sp (x : Idx) (b : Byte) : (s.setReg x b).sp = s.sp := rfl
@[simp] theorem State.setReg_mem (x : Idx) (b : Byte) : (s.setReg x b).mem = s.mem := rfl
@[simp] theorem State.setReg_dt (x : Idx) (b : Byte) : (s.setReg x b).dt = s.dt := rfl
@[simp] theorem State.setReg_st (x : Idx) (b : Byte) : (s.setReg x b).st = s.st := rfl
@[simp] theorem State.setReg_disp (x : Idx) (b : Byte) : (s.setReg x b).disp = s.disp := rfl
@[simp] theorem State.setReg_key (x : Idx) (b : Byte) : (s.setReg x b).key = s.key := rfl
@[simp] theorem State.setReg_redrawPending (x : Idx) (b : Byte) : (s.setReg x b).redrawPending = s.redrawPending := rfl
@[simp] theorem State.setReg_outcome (x : Idx) (b : Byte) : (s.setReg x b).outcome = s.outcome := rfl
@[simp] theorem State.setReg_draws (x : Idx) (b : Byte) : (s.setReg x b).draws = s.draws := rfl
@[simp] theorem State.setReg_font (x : Idx) (b : Byte) : (s.setReg x b).font = s.font := rfl
@[simp] theorem State.setReg_readByte (x : Idx) (b : Byte) (q : Nat) : (s.setReg x b).readByte q = s.readByte q := rfl
@[simp] theorem State.setReg_cell (x : Idx) (b : Byte) (q : Nat) : (s.setReg x b).cell q = s.cell q := rfl
@[simp] theorem State.setReg_keyAt (x : Idx) (b : Byte) (q : Byte) : (s.setReg x b).keyAt q = s.keyAt q := rfl
@[simp] theorem State.setReg_elemAddr (x : Idx) (b : Byte) (q : Nat) : (s.setReg x b).elemAddr q = s.elemAddr q := rfl
@[simp] theorem State.setReg_fetch (x : Idx) (b : Byte) : (s.setReg x b).fetch = s.fetch := rfl
@[simp] theorem State.setReg_draw (x : Idx) (b : Byte) : (s.setReg x b).draw = s.draw := rfl

@[simp] theorem State.setI_v (a : Addr) : (s.setI a).v = s.v := rfl
@[simp] theorem State.setI_i (a : Addr) : (s.setI a).i = a := rfl
@[simp] theorem State.setI_pc (a : Addr) : (s.setI a).pc = s.pc := rfl
@[simp] theorem State.setI_stack (a : Addr) : (s.setI a).stack = s.stack := rfl
@[simp] theorem State.setI_sp (a : Addr) : (s.setI a).sp = s.sp := rfl
@[simp] theorem State.setI_mem (a : Addr) : (s.setI a).mem = s.mem := rfl
@[simp] theorem State.setI_dt (a : Addr) : (s.setI a).dt = s.dt := rfl
@[simp] theorem State.setI_st (a : Addr) : (s.setI a).st = s.st := rfl
@[simp] theorem State.setI_disp (a : Addr) : (s.setI a).disp = s.disp := rfl
@[simp] theorem State.setI_key (a : Addr) : (s.setI a).key = s.key := rfl
@[simp] theorem State.setI_redrawPending (a : Addr) : (s.setI a).redrawPending = s.redrawPending := rfl
@[simp] theorem State.setI_outcome (a : Addr) : (s.setI a).outcome = s.outcome := rfl
@[simp] theorem State.setI_draws (a : Addr) : (s.setI a).draws = s.draws := rfl
@[simp] theorem State.setI_font (a : Addr) : (s.setI a).font = s.font := rfl
@[simp] theorem State.setI_reg (a : Addr) (r : Idx) : (s.setI a).reg r = s.reg r := rfl
@[simp] theorem State.setI_readByte (a : Addr) (q : Nat) : (s.setI a).readByte q = s.readByte q := rfl
@[simp] theorem State.setI_cell (a : Addr) (q : Nat) : (s.setI a).cell q = s.cell q := rfl
@[simp] theorem State.setI_keyAt (a : Addr) (q : Byte) : (s.setI a).keyAt q = s.keyAt q := rfl
@[simp] theorem State.setI_fetch (a : Addr) : (s.setI a).fetch = s.fetch := rfl
@[simp] theorem State.setI_draw (a : Addr) : (s.setI a).draw = s.draw := rfl

@[simp] theorem State.setPc_v (a : Addr) : (s.setPc a).v = s.v := rfl
@[simp] theorem State.setPc_i (a : Addr) : (s.setPc a).i = s.i := rfl
@[simp] theorem State.setPc_pc (a : Addr) : (s.setPc a).pc = a := rfl
@[simp] theorem State.setPc_stack (a : Addr) : (s.setPc a).stack = s.stack := rfl
@[simp] theorem State.setPc_sp (a : Addr) : (s.setPc a).sp = s.sp := rfl
@[simp] theorem State.setPc_mem (a : Addr) : (s.setPc a).mem = s.mem := rfl
@[simp] theorem State.setPc_dt (a : Addr) : (s.setPc a).dt = s.dt := rfl
@[simp] theorem State.setPc_st (a : Addr) : (s.setPc a).st = s.st := rfl
@[simp] theorem State.setPc_disp (a : Addr) : (s.setPc a).disp = s.disp := rfl
@[simp] theorem State.setPc_key (a : Addr) : (s.setPc a).key = s.key := rfl
@[simp] theorem State.setPc_redrawPending (a : Addr) : (s.setPc a).redrawPending = s.redrawPending := rfl
@[simp] theorem State.setPc_outcome (a : Addr) : (s.setPc a).outcome = s.outcome := rfl
@[simp] theorem State.setPc_draws (a : Addr) : (s.setPc a).draws = s.draws := rfl
@[simp] theorem State.setPc_font (a : Addr) : (s.setPc a).font = s.font := rfl
@[simp] theorem State.setPc_reg (a : Addr) (r : Idx) : (s.setPc a).reg r = s.reg r := rfl
@[simp] theorem State.setPc_readByte (a : Addr) (q : Nat) : (s.setPc a).readByte q = s.readByte q := rfl
@[simp] theorem State.setPc_cell (a : Addr) (q : Nat) : (s.setPc a).cell q = s.cell q := rfl
@[simp] theorem State.setPc_keyAt (a : Addr) (q : Byte) : (s.setPc a).keyAt q = s.keyAt q := rfl
@[simp] theorem State.setPc_elemAddr (a : Addr) (q : Nat) : (s.setPc a).elemAddr q = s.elemAddr q := rfl
@[simp] theorem State.setPc_draw (a : Addr) : (s.setPc a).draw = s.draw := rfl

@[simp] theorem State.setDt_v (b : Byte) : (s.setDt b).v = s.v := rfl
@[simp] theorem State.setDt_i (b : Byte) : (s.setDt b).i = s.i := rfl
@[simp] theorem State.setDt_pc (b : Byte) : (s.setDt b).pc = s.pc := rfl
@[simp] theorem State.setDt_stack (b : Byte) : (s.setDt b).stack = s.stack := rfl
@[simp] theorem State.setDt_sp (b : Byte) : (s.setDt b).sp = s.sp := rfl
@[simp] theorem State.setDt_mem (b : Byte) : (s.setDt b).mem = s.mem := rfl
@[simp] theorem State.setDt_dt (b : Byte) : (s.setDt b).dt = b := rfl
@[simp] theorem State.setDt_st (b : Byte) : (s.setDt b).st = s.st := rfl
@[simp] theorem State.setDt_disp (b : Byte) : (s.setDt b).disp = s.disp := rfl
@[simp] theorem State.setDt_key (b : Byte) : (s.setDt b).key = s.key := rfl
@[simp] theorem State.setDt_redrawPending (b : Byte) : (s.setDt b).redrawPending = s.redrawPending := rfl
@[simp] theorem State.setDt_outcome (b : Byte) : (s.setDt b).outcome = s.outcome := rfl
@[simp] theorem State.setDt_draws (b : Byte) : (s.setDt b).draws = s.draws := rfl
@[simp] theorem State.setDt_font (b : Byte) : (s.setDt b).font = s.font := rfl
@[simp] theorem State.setDt_reg (b : Byte) (r : Idx) : (s.setDt b).reg r = s.reg r := rfl
@[simp] theorem State.setDt_readByte (b : Byte) (q : Nat) : (s.setDt b).readByte q = s.readByte q := rfl
@[simp] theorem State.setDt_cell (b : Byte) (q : Nat) : (s.setDt b).cell q = s.cell q := rfl
@[simp] theorem State.setDt_keyAt (b : Byte) (q : Byte) : (s.setDt b).keyAt q = s.keyAt q := rfl
@[simp] theorem State.setDt_elemAddr (b : Byte) (q : Nat) : (s.setDt b).elemAddr q = s.elemAddr q := rfl
@[simp] theorem State.setDt_fetch (b : Byte) : (s.setDt b).fetch = s.fetch := rfl
@[simp] theorem State.setDt_draw (b : Byte) : (s.setDt b).draw = s.draw := rfl

@[simp] theorem State.setSt_v (b : Byte) : (s.setSt b).v = s.v := rfl
@[simp] theorem State.setSt_i (b : Byte) : (s.setSt b).i = s.i := rfl
@[simp] theorem State.setSt_pc (b : Byte) : (s.setSt b).pc = s.pc := rfl
@[simp] theorem State.setSt_stack (b : Byte) : (s.setSt b).stack = s.stack := rfl
@[simp] theorem State.setSt_sp (b : Byte) : (s.setSt b).sp = s.sp := rfl
@[simp] theorem State.setSt_mem (b : Byte) : (s.setSt b).mem = s.mem := rfl
@[simp] theorem State.setSt_dt (b : Byte) : (s.setSt b).dt = s.dt := rfl
@[simp] theorem State.setSt_st (b : Byte) : (s.setSt b).st = b := rfl
@[simp] theorem State.setSt_disp (b : Byte) : (s.setSt b).disp = s.disp := rfl
@[simp] theorem State.setSt_key (b : Byte) : (s.setSt b).key = s.key := rfl
@[simp] theorem State.setSt_redrawPending (b : Byte) : (s.setSt b).redrawPending = s.redrawPending := rfl
@[simp] theorem State.setSt_outcome (b : Byte) : (s.setSt b).outcome = s.outcome := rfl
@[simp] theorem State.setSt_draws (b : Byte) : (s.setSt b).draws = s.draws := rfl
@[simp] theorem State.setSt_font (b : Byte) : (s.setSt b).font = s.font := rfl
@[simp] theorem State.setSt_reg (b : Byte) (r : Idx) : (s.setSt b).reg r = s.reg r := rfl
@[simp] theorem State.setSt_readByte (b : Byte) (q : Nat) : (s.setSt b).readByte q = s.readByte q := rfl
@[simp] theorem State.setSt_cell (b : Byte) (q : Nat) : (s.setSt b).cell q = s.cell q := rfl
@[simp] theorem State.setSt_keyAt (b : Byte) (q : Byte) : (s.setSt b).keyAt q = s.keyAt q := rfl
@[simp] theorem State.setSt_elemAddr (b : Byte) (q : Nat) : (s.setSt b).elemAddr q = s.elemAddr q := rfl
@[simp] theorem State.setSt_fetch (b : Byte) : (s.setSt b).fetch = s.fetch := rfl
@[simp] theorem State.setSt_draw (b : Byte) : (s.setSt b).draw = s.draw := rfl

@[simp] theorem State.writeByte_v (a : Nat) (b : Byte) : (s.writeByte a b).v = s.v := rfl
@[simp] theorem State.writeByte_i (a : Nat) (b : Byte) : (s.writeByte a b).i = s.i := rfl
@[simp] theorem State.writeByte_pc (a : Nat) (b : Byte) : (s.writeByte a b).pc = s.pc := rfl
@[simp] theorem State.writeByte_stack (a : Nat) (b : Byte) : (s.writeByte a b).stack = s.stack := rfl
@[simp] theorem State.writeByte_sp (a : Nat) (b : Byte) : (s.writeByte a b).sp = s.sp := rfl
@[simp] theorem State.writeByte_mem (a : Nat) (b : Byte) : (s.writeByte a b).mem = Cells.write (Memory.unlisted s.font) s.mem (a % 4096) b := rfl
@[simp] theorem State.writeByte_dt (a : Nat) (b : Byte) : (s.writeByte a b).dt = s.dt := rfl
@[simp] theorem State.writeByte_st (a : Nat) (b : Byte) : (s.writeByte a b).st = s.st := rfl
@[simp] theorem State.writeByte_disp (a : Nat) (b : Byte) : (s.writeByte a b).disp = s.disp := rfl
@[simp] theorem State.writeByte_key (a : Nat) (b : Byte) : (s.writeByte a b).key = s.key := rfl
@[simp] theorem State.writeByte_redrawPending (a : Nat) (b : Byte) : (s.writeByte a b).redrawPending = s.redrawPending := rfl
@[simp] theorem State.writeByte_outcome (a : Nat) (b : Byte) : (s.writeByte a b).outcome = s.outcome := rfl
@[simp] theorem State.writeByte_draws (a : Nat) (b : Byte) : (s.writeByte a b).draws = s.draws := rfl
@[simp] theorem State.writeByte_font (a : Nat) (b : Byte) : (s.writeByte a b).font = s.font := rfl
@[simp] theorem State.writeByte_reg (a : Nat) (b : Byte) (r : Idx) : (s.writeByte a b).reg r = s.reg r := rfl
@[simp] theorem State.writeByte_cell (a : Nat) (b : Byte) (q : Nat) : (s.writeByte a b).cell q = s.cell q := rfl
@[simp] theorem State.writeByte_keyAt (a : Nat) (b : Byte) (q : Byte) : (s.writeByte a b).keyAt q = s.keyAt q := rfl
@[simp] theorem State.writeByte_elemAddr (a : Nat) (b : Byte) (q : Nat) : (s.writeByte a b).elemAddr q = s.elemAddr q := rfl
@[simp] theorem State.writeByte_draw (a : Nat) (b : Byte) : (s.writeByte a b).draw = s.draw := rfl

@[simp] theorem State.setCell_v (k : Nat) (b : Byte) : (s.setCell k b).v = s.v := rfl
@[simp] theorem State.setCell_i (k : Nat) (b : Byte) : (s.setCell k b).i = s.i := rfl
@[simp] theorem State.setCell_pc (k : Nat) (b : Byte) : (s.setCell k b).pc = s.pc := rfl
@[simp] theorem State.setCell_stack (k : Nat) (b : Byte) : (s.setCell k b).stack = s.stack := rfl
@[simp] theorem State.setCell_sp (k : Nat) (b : Byte) : (s.setCell k b).sp = s.sp := rfl
@[simp] theorem State.setCell_mem (k : Nat) (b : Byte) : (s.setCell k b).mem = s.mem := rfl
@[simp] theorem State.setCell_dt (k : Nat) (b : Byte) : (s.setCell k b).dt = s.dt := rfl
@[simp] theorem State.setCell_st (k : Nat) (b : Byte) : (s.setCell k b).st = s.st := rfl
@[simp] theorem State.setCell_disp (k : Nat) (b : Byte) : (s.setCell k b).disp = Cells.write Display.unlisted s.disp k b := rfl
@[simp] theorem State.setCell_key (k : Nat) (b : Byte) : (s.setCell k b).key = s.key := rfl
@[simp] theorem State.setCell_redrawPending (k : Nat) (b : Byte) : (s.setCell k b).redrawPending = s.redrawPending := rfl
@[simp] theorem State.setCell_outcome (k : Nat) (b : Byte) : (s.setCell k b).outcome = s.outcome := rfl
@[simp] theorem State.setCell_draws (k : Nat) (b : Byte) : (s.setCell k b).draws = s.draws := rfl
@[simp] theorem State.setCell_font (k : Nat) (b : Byte) : (s.setCell k b).font = s.font := rfl
@[simp] theorem State.setCell_reg (k : Nat) (b : Byte) (r : Idx) : (s.setCell k b).reg r = s.reg r := rfl
@[simp] theorem State.setCell_readByte (k : Nat) (b : Byte) (q : Nat) : (s.setCell k b).readByte q = s.readByte q := rfl
@[simp] theorem State.setCell_keyAt (k : Nat) (b : Byte) (q : Byte) : (s.setCell k b).keyAt q = s.keyAt q := rfl
@[simp] theorem State.setCell_elemAddr (k : Nat) (b : Byte) (q : Nat) : (s.setCell k b).elemAddr q = s.elemAddr q := rfl
@[simp] theorem State.setCell_fetch (k : Nat) (b : Byte) : (s.setCell k b).fetch = s.fetch := rfl
@[simp] theorem State.setCell_draw (k : Nat) (b : Byte) : (s.setCell k b).draw = s.draw := rfl

@[simp] theorem State.clearDisp_v : (s.clearDisp).v = s.v := rfl
@[simp] theorem State.clearDisp_i : (s.clearDisp).i = s.i := rfl
@[simp] theorem State.clearDisp_pc : (s.clearDisp).pc = s.pc := rfl
@[simp] theorem State.clearDisp_stack : (s.clearDisp).stack = s.stack := rfl
@[simp] theorem State.clearDisp_sp : (s.clearDisp).sp = s.sp := rfl
@[simp] theorem State.clearDisp_mem : (s.clearDisp).mem = s.mem := rfl
@[simp] theorem State.clearDisp_dt : (s.clearDisp).dt = s.dt := rfl
@[simp] theorem State.clearDisp_st : (s.clearDisp).st = s.st := rfl
@[simp] theorem State.clearDisp_disp : (s.clearDisp).disp = [] := rfl
@[simp] theorem State.clearDisp_key : (s.clearDisp).key = s.key := rfl
@[simp] theorem State.clearDisp_redrawPending : (s.clearDisp).redrawPending = s.redrawPending := rfl
@[simp] theorem State.clearDisp_outcome : (s.clearDisp).outcome = s.outcome := rfl
@[simp] theorem State.clearDisp_draws : (s.clearDisp).draws = s.draws := rfl
@[simp] theorem State.clearDisp_font : (s.clearDisp).font = s.font := rfl
@[simp] theorem State.clearDisp_reg (r : Idx) : (s.clearDisp).reg r = s.reg r := rfl
@[simp] theorem State.clearDisp_readByte (q : Nat) : (s.clearDisp).readByte q = s.readByte q := rfl
@[simp] theorem State.clearDisp_keyAt (q : Byte) : (s.clearDisp).keyAt q = s.keyAt q := rfl
@[simp] theorem State.clearDisp_elemAddr (q : Nat) : (s.clearDisp).elemAddr q = s.elemAddr q := rfl
@[simp] theorem State.clearDisp_fetch : (s.clearDisp).fetch = s.fetch := rfl
@[simp] theorem State.clearDisp_draw : (s.clearDisp).draw = s.draw := rfl

@[simp] theorem State.setRedraw_v (b : Bool) : (s.setRedraw b).v = s.v := rfl
@[simp] theorem State.setRedraw_i (b : Bool) : (s.setRedraw b).i = s.i := rfl
@[simp] theorem State.setRedraw_pc (b : Bool) : (s.setRedraw b).pc = s.pc := rfl
@[simp] theorem State.setRedraw_stack (b : Bool) : (s.setRedraw b).stack = s.stack := rfl
@[simp] theorem State.setRedraw_sp (b : Bool) : (s.setRedraw b).sp = s.sp := rfl
@[simp] theorem State.setRedraw_mem (b : Bool) : (s.setRedraw b).mem = s.mem := rfl
@[simp] theorem State.setRedraw_dt (b : Bool) : (s.setRedraw b).dt = s.dt := rfl
@[simp] theorem State.setRedraw_st (b : Bool) : (s.setRedraw b).st = s.st := rfl
@[simp] theorem State.setRedraw_disp (b : Bool) : (s.setRedraw b).disp = s.disp := rfl
@[simp] theorem State.setRedraw_key (b : Bool) : (s.setRedraw b).key = s.key := rfl
@[simp] theorem State.setRedraw_redrawPending (b : Bool) : (s.setRedraw b).redrawPending = b := rfl
@[simp] theorem State.setRedraw_outcome (b : Bool) : (s.setRedraw b).outcome = s.outcome := rfl
@[simp] theorem State.setRedraw_draws (b : Bool) : (s.setRedraw b).draws = s.draws := rfl
@[simp] theorem State.setRedraw_font (b : Bool) : (s.setRedraw b).font = s.font := rfl
@[simp] theorem State.setRedraw_reg (b : Bool) (r : Idx) : (s.setRedraw b).reg r = s.reg r := rfl
@[simp] theorem State.setRedraw_readByte (b : Bool) (q : Nat) : (s.setRedraw b).readByte q = s.readByte q := rfl
@[simp] theorem State.setRedraw_cell (b : Bool) (q : Nat) : (s.setRedraw b).cell q = s.cell q := rfl
@[simp] theorem State.setRedraw_keyAt (b : Bool) (q : Byte) : (s.setRedraw b).keyAt q = s.keyAt q := rfl
@[simp] theorem State.setRedraw_elemAddr (b : Bool) (q : Nat) : (s.setRedraw b).elemAddr q = s.elemAddr q := rfl
@[simp] theorem State.setRedraw_fetch (b : Bool) : (s.setRedraw b).fetch = s.fetch := rfl
@[simp] theorem State.setRedraw_draw (b : Bool) : (s.setRedraw b).draw = s.draw := rfl

@[simp] theorem State.setStack_v (j : Fin 16) (a : Addr) : (s.setStack j a).v = s.v := rfl
@[simp] theorem State.setStack_i (j : Fin 16) (a : Addr) : (s.setStack j a).i = s.i := rfl
@[simp] theorem State.setStack_pc (j : Fin 16) (a : Addr) : (s.setStack j a).pc = s.pc := rfl
@[simp] theorem State.setStack_stack (j : Fin 16) (a : Addr) : (s.setStack j a).stack = s.stack.set j a := rfl
@[simp] theorem State.setStack_sp (j : Fin 16) (a : Addr) : (s.setStack j a).sp = s.sp := rfl
@[simp] theorem State.setStack_mem (j : Fin 16) (a : Addr) : (s.setStack j a).mem = s.mem := rfl
@[simp] theorem State.setStack_dt (j : Fin 16) (a : Addr) : (s.setStack j a).dt = s.dt := rfl
@[simp] theorem State.setStack_st (j : Fin 16) (a : Addr) : (s.setStack j a).st = s.st := rfl
@[simp] theorem State.setStack_disp (j : Fin 16) (a : Addr) : (s.setStack j a).disp = s.disp := rfl
@[simp] theorem State.setStack_key (j : Fin 16) (a : Addr) : (s.setStack j a).key = s.key := rfl
@[simp] theorem State.setStack_redrawPending (j : Fin 16) (a : Addr) : (s.setStack j a).redrawPending = s.redrawPending := rfl
@[simp] theorem State.setStack_outcome (j : Fin 16) (a : Addr) : (s.setStack j a).outcome = s.outcome := rfl
@[simp] theorem State.setStack_draws (j : Fin 16) (a : Addr) : (s.setStack j a).draws = s.draws := rfl
@[simp] theorem State.setStack_font (j : Fin 16) (a : Addr) : (s.setStack j a).font = s.font := rfl
@[simp] theorem State.setStack_reg (j : Fin 16) (a : Addr) (r : Idx) : (s.setStack j a).reg r = s.reg r := rfl
@[simp] theorem State.setStack_readByte (j : Fin 16) (a : Addr) (q : Nat) : (s.setStack j a).readByte q = s.readByte q := rfl
@[simp] theorem State.setStack_cell (j : Fin 16) (a : Addr) (q : Nat) : (s.setStack j a).cell q = s.cell q := rfl
@[simp] theorem State.setStack_keyAt (j : Fin 16) (a : Addr) (q : Byte) : (s.setStack j a).keyAt q = s.keyAt q := rfl
@[simp] theorem State.setStack_elemAddr (j : Fin 16) (a : Addr) (q : Nat) : (s.setStack j a).elemAddr q = s.elemAddr q := rfl
@[simp] theorem State.setStack_fetch (j : Fin 16) (a : Addr) : (s.setStack j a).fetch = s.fetch := rfl
@[simp] theorem State.setStack_draw (j : Fin 16) (a : Addr) : (s.setStack j a).draw = s.draw := rfl

@[simp] theorem State.setSp_v (n : Fin 17) : (s.setSp n).v = s.v := rfl
@[simp] theorem State.setSp_i (n : Fin 17) : (s.setSp n).i = s.i := rfl
@[simp] theorem State.setSp_pc (n : Fin 17) : (s.setSp n).pc = s.pc := rfl
@[simp] theorem State.setSp_stack (n : Fin 17) : (s.setSp n).stack = s.stack := rfl
@[simp] theorem State.setSp_sp (n : Fin 17) : (s.setSp n).sp = n := rfl
@[simp] theorem State.setSp_mem (n : Fin 17) : (s.setSp n).mem = s.mem := rfl
@[simp] theorem State.setSp_dt (n : Fin 17) : (s.setSp n).dt = s.dt := rfl
@[simp] theorem State.setSp_st (n : Fin 17) : (s.setSp n).st = s.st := rfl
@[simp] theorem State.setSp_disp (n : Fin 17) : (s.setSp n).disp = s.disp := rfl
@[simp] theorem State.setSp_key (n : Fin 17) : (s.setSp n).key = s.key := rfl
@[simp] theorem State.setSp_redrawPending (n : Fin 17) : (s.setSp n).redrawPending = s.redrawPending := rfl
@[simp] theorem State.setSp_outcome (n : Fin 17) : (s.setSp n).outcome = s.outcome := rfl
@[simp] theorem State.setSp_draws (n : Fin 17) : (s.setSp n).draws = s.draws := rfl
@[simp] theorem State.setSp_font (n : Fin 17) : (s.setSp n).font = s.font := rfl
@[simp] theorem State.setSp_reg (n : Fin 17) (r : Idx) : (s.setSp n).reg r = s.reg r := rfl
@[simp] theorem State.setSp_readByte (n : Fin 17) (q : Nat) : (s.setSp n).readByte q = s.readByte q := rfl
@[simp] theorem State.setSp_cell (n : Fin 17) (q : Nat) : (s.setSp n).cell q = s.cell q := rfl
@[simp] theorem State.setSp_keyAt (n : Fin 17) (q : Byte) : (s.setSp n).keyAt q = s.keyAt q := rfl
@[simp] theorem State.setSp_elemAddr (n : Fin 17) (q : Nat) : (s.setSp n).elemAddr q = s.elemAddr q := rfl
@[simp] theorem State.setSp_fetch (n : Fin 17) : (s.setSp n).fetch = s.fetch := rfl
@[simp] theorem State.setSp_draw (n : Fin 17) : (s.setSp n).draw = s.draw := rfl

@[simp] theorem State.setKey_v (k : Vector Bool 16) : (s.setKey k).v = s.v := rfl
@[simp] theorem State.setKey_i (k : Vector Bool 16) : (s.setKey k).i = s.i := rfl
@[simp] theorem State.setKey_pc (k : Vector Bool 16) : (s.setKey k).pc = s.pc := rfl
@[simp] theorem State.setKey_stack (k : Vector Bool 16) : (s.setKey k).stack = s.stack := rfl
@[simp] theorem State.setKey_sp (k : Vector Bool 16) : (s.setKey k).sp = s.sp := rfl
@[simp] theorem State.setKey_mem (k : Vector Bool 16) : (s.setKey k).mem = s.mem := rfl
@[simp] theorem State.setKey_dt (k : Vector Bool 16) : (s.setKey k).dt = s.dt := rfl
@[simp] theorem State.setKey_st (k : Vector Bool 16) : (s.setKey k).st = s.st := rfl
@[simp] theorem State.setKey_disp (k : Vector Bool 16) : (s.setKey k).disp = s.disp := rfl
@[simp] theorem State.setKey_key (k : Vector Bool 16) : (s.setKey k).key = k := rfl
@[simp] theorem State.setKey_redrawPending (k : Vector Bool 16) : (s.setKey k).redrawPending = s.redrawPending := rfl
@[simp] theorem State.setKey_outcome (k : Vector Bool 16) : (s.setKey k).outcome = s.outcome := rfl
@[simp] theorem State.setKey_draws (k : Vector Bool 16) : (s.setKey k).draws = s.draws := rfl
@[simp] theorem State.setKey_font (k : Vector Bool 16) : (s.setKey k).font = s.font := rfl
@[simp] theorem State.setKey_reg (k : Vector Bool 16) (r : Idx) : (s.setKey k).reg r = s.reg r := rfl
@[simp] theorem State.setKey_readByte (k : Vector Bool 16) (q : Nat) : (s.setKey k).readByte q = s.readByte q := rfl
@[simp] theorem State.setKey_cell (k : Vector Bool 16) (q : Nat) : (s.setKey k).cell q = s.cell q := rfl
@[simp] theorem State.setKey_elemAddr (k : Vector Bool 16) (q : Nat) : (s.setKey k).elemAddr q = s.elemAddr q := rfl
@[simp] theorem State.setKey_fetch (k : Vector Bool 16) : (s.setKey k).fetch = s.fetch := rfl
@[simp] theorem State.setKey_draw (k : Vector Bool 16) : (s.setKey k).draw = s.draw := rfl

@[simp] theorem State.countDraw_v : (s.countDraw).v = s.v := rfl
@[simp] theorem State.countDraw_i : (s.countDraw).i = s.i := rfl
@[simp] theorem State.countDraw_pc : (s.countDraw).pc = s.pc := rfl
@[simp] theorem State.countDraw_stack : (s.countDraw).stack = s.stack := rfl
@[simp] theorem State.countDraw_sp : (s.countDraw).sp = s.sp := rfl
@[simp] theorem State.countDraw_mem : (s.countDraw).mem = s.mem := rfl
@[simp] theorem State.countDraw_dt : (s.countDraw).dt = s.dt := rfl
@[simp] theorem State.countDraw_st : (s.countDraw).st = s.st := rfl
@[simp] theorem State.countDraw_disp : (s.countDraw).disp = s.disp := rfl
@[simp] theorem State.countDraw_key : (s.countDraw).key = s.key := rfl
@[simp] theorem State.countDraw_redrawPending : (s.countDraw).redrawPending = s.redrawPending := rfl
@[simp] theorem State.countDraw_outcome : (s.countDraw).outcome = s.outcome := rfl
@[simp] theorem State.countDraw_draws : (s.countDraw).draws = s.draws + 1 := rfl
@[simp] theorem State.countDraw_font : (s.countDraw).font = s.font := rfl
@[simp] theorem State.countDraw_reg (r : Idx) : (s.countDraw).reg r = s.reg r := rfl
@[simp] theorem State.countDraw_readByte (q : Nat) : (s.countDraw).readByte q = s.readByte q := rfl
@[simp] theorem State.countDraw_cell (q : Nat) : (s.countDraw).cell q = s.cell q := rfl
@[simp] theorem State.countDraw_keyAt (q : Byte) : (s.countDraw).keyAt q = s.keyAt q := rfl
@[simp] theorem State.countDraw_elemAddr (q : Nat) : (s.countDraw).elemAddr q = s.elemAddr q := rfl
@[simp] theorem State.countDraw_fetch : (s.countDraw).fetch = s.fetch := rfl

@[simp] theorem State.setOutcome_v (c : StepOutcome) : (s.setOutcome c).v = s.v := rfl
@[simp] theorem State.setOutcome_i (c : StepOutcome) : (s.setOutcome c).i = s.i := rfl
@[simp] theorem State.setOutcome_pc (c : StepOutcome) : (s.setOutcome c).pc = s.pc := rfl
@[simp] theorem State.setOutcome_stack (c : StepOutcome) : (s.setOutcome c).stack = s.stack := rfl
@[simp] theorem State.setOutcome_sp (c : StepOutcome) : (s.setOutcome c).sp = s.sp := rfl
@[simp] theorem State.setOutcome_mem (c : StepOutcome) : (s.setOutcome c).mem = s.mem := rfl
@[simp] theorem State.setOutcome_dt (c : StepOutcome) : (s.setOutcome c).dt = s.dt := rfl
@[simp] theorem State.setOutcome_st (c : StepOutcome) : (s.setOutcome c).st = s.st := rfl
@[simp] theorem State.setOutcome_disp (c : StepOutcome) : (s.setOutcome c).disp = s.disp := rfl
@[simp] theorem State.setOutcome_key (c : StepOutcome) : (s.setOutcome c).key = s.key := rfl
@[simp] theorem State.setOutcome_redrawPending (c : StepOutcome) : (s.setOutcome c).redrawPending = s.redrawPending := rfl
@[simp] theorem State.setOutcome_outcome (c : StepOutcome) : (s.setOutcome c).outcome = c := rfl
@[simp] theorem State.setOutcome_draws (c : StepOutcome) : (s.setOutcome c).draws = s.draws := rfl
@[simp] theorem State.setOutcome_font (c : StepOutcome) : (s.setOutcome c).font = s.font := rfl
@[simp] theorem State.setOutcome_reg (c : StepOutcome) (r : Idx) : (s.setOutcome c).reg r = s.reg r := rfl
@[simp] theorem State.setOutcome_readByte (c : StepOutcome) (q : Nat) : (s.setOutcome c).readByte q = s.readByte q := rfl
@[simp] theorem State.setOutcome_cell (c : StepOutcome) (q : Nat) : (s.setOutcome c).cell q = s.cell q := rfl
@[simp] theorem State.setOutcome_keyAt (c : StepOutcome) (q : Byte) : (s.setOutcome c).keyAt q = s.keyAt q := rfl
@[simp] theorem State.setOutcome_elemAddr (c : StepOutcome) (q : Nat) : (s.setOutcome c).elemAddr q = s.elemAddr q := rfl
@[simp] theorem State.setOutcome_fetch (c : StepOutcome) : (s.setOutcome c).fetch = s.fetch := rfl
@[simp] theorem State.setOutcome_draw (c : StepOutcome) : (s.setOutcome c).draw = s.draw := rfl

/-! The updates that are other updates. -/

@[simp] theorem State.toNext_eq : s.toNext = s.setPc (s.pc + 2) := rfl
@[simp] theorem State.toSkip_eq : s.toSkip = s.setPc (s.pc + 4) := rfl
@[simp] theorem State.setFlag_eq (f : Byte) : s.setFlag f = s.setReg 15 f := rfl
@[simp] theorem State.advanceI_eq (n : Nat) : s.advanceI n = s.setI (s.i + BitVec.ofNat 16 n) := rfl
@[simp] theorem State.tick_eq : s.tick = (s.setDt (countDown s.dt)).setSt (countDown s.st) := rfl
@[simp] theorem complete_eq : complete s = .next (s.setOutcome .ok) := rfl
@[simp] theorem raise_eq (c : StepOutcome) : raise c s = .next (s.setOutcome c) := rfl
@[simp] theorem tickAfter_next : tickAfter (.next s) = .next s.tick := rfl
theorem State.skipIf_eq (c : Bool) : s.skipIf c = s.setPc (if c then s.pc + 4 else s.pc + 2) := by
  cases c <;> rfl

end Sys2Proof.Machine
end

