-- ==== Sys2Proof/Laws/Ops.lean ====
section
/-! SUPPORT. One lemma for each shared operation that says what it does, so that proofs cite it instead of unfolding the
operation: reads after writes, the loops, the tick, the fetch. -/

namespace Sys2Proof.Machine

/-! Reads after writes. -/

/-- A register after a write: the value written in the register named, the old one elsewhere (10_state.md R10). -/
theorem State.reg_setReg (s : State) (x r : Idx) (b : Byte) :
    (s.setReg x b).reg r = if r = x then b else s.reg r := by
  simp only [State.reg, State.setReg]
  by_cases h : r = x
  · subst h; simp
  · have : x.val ≠ r.val := fun e => h (Fin.ext e.symm)
    simp [h, this]

@[simp] theorem State.reg_setReg_same (s : State) (x : Idx) (b : Byte) : (s.setReg x b).reg x = b := by
  simp [State.reg_setReg]

/-- A byte of memory after a write (20_memory.md R41 to R43). -/
theorem State.readByte_writeByte (s : State) (a q : Nat) (b : Byte) :
    (s.writeByte a b).readByte q = if q % 4096 = a % 4096 then b else s.readByte q := by
  simp [State.readByte, State.writeByte, Cells.read_write]

/-- An address is reduced modulo 4096 at the access (20_memory.md R41). -/
theorem State.readByte_mod (s : State) (a : Nat) : s.readByte (a % 4096) = s.readByte a := by
  simp [State.readByte]

/-- A display cell after a write (10_state.md R20). -/
theorem State.cell_setCell (s : State) (k q : Nat) (b : Byte) :
    (s.setCell k b).cell q = if q = k then b else s.cell q := by
  simp [State.cell, State.setCell, Cells.read_write]

@[simp] theorem State.cell_clearDisp (s : State) (k : Nat) : s.clearDisp.cell k = 0 := rfl

/-- Two states with the same registers, read one by one, have the same register file. -/
theorem State.v_ext {s t : State} (h : ∀ r, t.reg r = s.reg r) : t.v = s.v :=
  Vector.ext fun j hj => h ⟨j, hj⟩

/-! The loop. -/

@[simp] theorem forUpTo_zero (f : Nat → State → State) (s : State) : forUpTo 0 f s = s := rfl

@[simp] theorem forUpTo_succ (n : Nat) (f : Nat → State → State) (s : State) :
    forUpTo (n + 1) f s = f n (forUpTo n f s) := rfl

/-- What holds before a loop and is kept by every iteration holds after it. -/
theorem forUpTo_keeps {P : State → Prop} {f : Nat → State → State} {s : State} (n : Nat) (h0 : P s)
    (hf : ∀ k < n, ∀ t, P t → P (f k t)) : P (forUpTo n f s) := by
  induction n with
  | zero => exact h0
  | succ n ih => exact hf n n.lt_succ_self _ (ih fun k hk => hf k (hk.trans n.lt_succ_self))

/-- A field no iteration changes is not changed by the loop. -/
theorem forUpTo_frame {α : Type} (g : State → α) {f : Nat → State → State} (n : Nat) (s : State)
    (hf : ∀ k t, g (f k t) = g t) : g (forUpTo n f s) = g s :=
  forUpTo_keeps (P := fun t => g t = g s) n rfl fun k _ t ht => (hf k t).trans ht

/-! The byte-list store changes memory only. -/

@[simp] theorem State.storeBytes_v (s : State) (a : Nat) (bs : List Byte) : (s.storeBytes a bs).v = s.v := by
  induction bs generalizing s a with
  | nil => rfl
  | cons b bs ih => simp [State.storeBytes, ih]
@[simp] theorem State.storeBytes_i (s : State) (a : Nat) (bs : List Byte) : (s.storeBytes a bs).i = s.i := by
  induction bs generalizing s a with
  | nil => rfl
  | cons b bs ih => simp [State.storeBytes, ih]
@[simp] theorem State.storeBytes_pc (s : State) (a : Nat) (bs : List Byte) : (s.storeBytes a bs).pc = s.pc := by
  induction bs generalizing s a with
  | nil => rfl
  | cons b bs ih => simp [State.storeBytes, ih]
@[simp] theorem State.storeBytes_stack (s : State) (a : Nat) (bs : List Byte) : (s.storeBytes a bs).stack = s.stack := by
  induction bs generalizing s a with
  | nil => rfl
  | cons b bs ih => simp [State.storeBytes, ih]
@[simp] theorem State.storeBytes_sp (s : State) (a : Nat) (bs : List Byte) : (s.storeBytes a bs).sp = s.sp := by
  induction bs generalizing s a with
  | nil => rfl
  | cons b bs ih => simp [State.storeBytes, ih]
@[simp] theorem State.storeBytes_dt (s : State) (a : Nat) (bs : List Byte) : (s.storeBytes a bs).dt = s.dt := by
  induction bs generalizing s a with
  | nil => rfl
  | cons b bs ih => simp [State.storeBytes, ih]
@[simp] theorem State.storeBytes_st (s : State) (a : Nat) (bs : List Byte) : (s.storeBytes a bs).st = s.st := by
  induction bs generalizing s a with
  | nil => rfl
  | cons b bs ih => simp [State.storeBytes, ih]
@[simp] theorem State.storeBytes_disp (s : State) (a : Nat) (bs : List Byte) : (s.storeBytes a bs).disp = s.disp := by
  induction bs generalizing s a with
  | nil => rfl
  | cons b bs ih => simp [State.storeBytes, ih]
@[simp] theorem State.storeBytes_key (s : State) (a : Nat) (bs : List Byte) : (s.storeBytes a bs).key = s.key := by
  induction bs generalizing s a with
  | nil => rfl
  | cons b bs ih => simp [State.storeBytes, ih]
@[simp] theorem State.storeBytes_redrawPending (s : State) (a : Nat) (bs : List Byte) : (s.storeBytes a bs).redrawPending = s.redrawPending := by
  induction bs generalizing s a with
  | nil => rfl
  | cons b bs ih => simp [State.storeBytes, ih]
@[simp] theorem State.storeBytes_outcome (s : State) (a : Nat) (bs : List Byte) : (s.storeBytes a bs).outcome = s.outcome := by
  induction bs generalizing s a with
  | nil => rfl
  | cons b bs ih => simp [State.storeBytes, ih]
@[simp] theorem State.storeBytes_draws (s : State) (a : Nat) (bs : List Byte) : (s.storeBytes a bs).draws = s.draws := by
  induction bs generalizing s a with
  | nil => rfl
  | cons b bs ih => simp [State.storeBytes, ih]
@[simp] theorem State.storeBytes_font (s : State) (a : Nat) (bs : List Byte) : (s.storeBytes a bs).font = s.font := by
  induction bs generalizing s a with
  | nil => rfl
  | cons b bs ih => simp [State.storeBytes, ih]

@[simp] theorem State.storeBytes_reg (s : State) (a : Nat) (bs : List Byte) (r : Idx) :
    (s.storeBytes a bs).reg r = s.reg r := by simp [State.reg]
@[simp] theorem State.storeBytes_cell (s : State) (a : Nat) (bs : List Byte) (k : Nat) :
    (s.storeBytes a bs).cell k = s.cell k := by simp [State.cell]

/-- Bytes outside the stored range keep their value. -/
theorem State.readByte_storeBytes_other (s : State) (a : Nat) (bs : List Byte) (q : Nat)
    (h : ∀ j < bs.length, q % 4096 ≠ (a + j) % 4096) : (s.storeBytes a bs).readByte q = s.readByte q := by
  induction bs generalizing s a with
  | nil => rfl
  | cons b bs ih =>
    rw [State.storeBytes, ih, State.readByte_writeByte, if_neg (by simpa using h 0 (by simp))]
    intro j hj
    have := h (j + 1) (by simpa using hj)
    rwa [show a + 1 + j = a + (j + 1) by omega]

/-- The stored bytes, when the list does not wrap onto itself. -/
theorem State.readByte_storeBytes_same (s : State) (a : Nat) (bs : List Byte) (hl : bs.length ≤ 4096) (j : Nat)
    (hj : j < bs.length) : (s.storeBytes a bs).readByte (a + j) = bs[j] := by
  induction bs generalizing s a j with
  | nil => simp at hj
  | cons b bs ih =>
    simp only [List.length_cons] at hl hj
    rw [State.storeBytes]
    cases j with
    | zero =>
      rw [State.readByte_storeBytes_other, State.readByte_writeByte]
      · simp
      · intro j' hj'; omega
    | succ j =>
      have := ih (s.writeByte a b) (a + 1) (by omega) j (by omega)
      rw [show a + (j + 1) = a + 1 + j by omega, this]
      simp

/-! The stores of FX55 change memory only. -/

@[simp] theorem State.storeRegs_v (s : State) (n : Nat) : (s.storeRegs n).v = s.v := by
  exact forUpTo_frame _ n s fun _ _ => rfl
@[simp] theorem State.storeRegs_i (s : State) (n : Nat) : (s.storeRegs n).i = s.i := by
  exact forUpTo_frame _ n s fun _ _ => rfl
@[simp] theorem State.storeRegs_pc (s : State) (n : Nat) : (s.storeRegs n).pc = s.pc := by
  exact forUpTo_frame _ n s fun _ _ => rfl
@[simp] theorem State.storeRegs_stack (s : State) (n : Nat) : (s.storeRegs n).stack = s.stack := by
  exact forUpTo_frame _ n s fun _ _ => rfl
@[simp] theorem State.storeRegs_sp (s : State) (n : Nat) : (s.storeRegs n).sp = s.sp := by
  exact forUpTo_frame _ n s fun _ _ => rfl
@[simp] theorem State.storeRegs_dt (s : State) (n : Nat) : (s.storeRegs n).dt = s.dt := by
  exact forUpTo_frame _ n s fun _ _ => rfl
@[simp] theorem State.storeRegs_st (s : State) (n : Nat) : (s.storeRegs n).st = s.st := by
  exact forUpTo_frame _ n s fun _ _ => rfl
@[simp] theorem State.storeRegs_disp (s : State) (n : Nat) : (s.storeRegs n).disp = s.disp := by
  exact forUpTo_frame _ n s fun _ _ => rfl
@[simp] theorem State.storeRegs_key (s : State) (n : Nat) : (s.storeRegs n).key = s.key := by
  exact forUpTo_frame _ n s fun _ _ => rfl
@[simp] theorem State.storeRegs_redrawPending (s : State) (n : Nat) : (s.storeRegs n).redrawPending = s.redrawPending := by
  exact forUpTo_frame _ n s fun _ _ => rfl
@[simp] theorem State.storeRegs_outcome (s : State) (n : Nat) : (s.storeRegs n).outcome = s.outcome := by
  exact forUpTo_frame _ n s fun _ _ => rfl
@[simp] theorem State.storeRegs_draws (s : State) (n : Nat) : (s.storeRegs n).draws = s.draws := by
  exact forUpTo_frame _ n s fun _ _ => rfl
@[simp] theorem State.storeRegs_font (s : State) (n : Nat) : (s.storeRegs n).font = s.font := by
  exact forUpTo_frame _ n s fun _ _ => rfl

@[simp] theorem State.storeRegs_reg (s : State) (n : Nat) (r : Idx) : (s.storeRegs n).reg r = s.reg r := by
  simp [State.reg]
@[simp] theorem State.storeRegs_cell (s : State) (n k : Nat) : (s.storeRegs n).cell k = s.cell k := by
  simp [State.cell]

/-- Memory after the stores of FX55: byte `j` above `I` is `V[j]`, every other byte is as before
(43_index_and_memory.md R144). -/
theorem State.readByte_storeRegs (s : State) (n : Nat) (hn : n ≤ 16) (q : Nat) :
    (∀ j < n, q % 4096 = s.elemAddr j % 4096 → (s.storeRegs n).readByte q = s.reg (regNo j)) ∧
    ((∀ j < n, q % 4096 ≠ s.elemAddr j % 4096) → (s.storeRegs n).readByte q = s.readByte q) := by
  induction n with
  | zero => exact ⟨fun j hj => absurd hj (by omega), fun _ => rfl⟩
  | succ n ih =>
    have hi : (s.storeRegs n).elemAddr n = s.elemAddr n := by simp [State.elemAddr]
    have hv : (s.storeRegs n).reg (regNo n) = s.reg (regNo n) := by simp [State.reg]
    have e : s.storeRegs (n + 1) = (s.storeRegs n).writeByte (s.elemAddr n) (s.reg (regNo n)) := by
      rw [← hi, ← hv]; rfl
    obtain ⟨ih1, ih2⟩ := ih (by omega)
    rw [e, State.readByte_writeByte]
    refine ⟨fun j hj hq => ?_, fun h => ?_⟩
    · by_cases hjn : j = n
      · subst hjn; simp [hq]
      · rw [if_neg, ih1 j (by omega) hq]
        simp only [State.elemAddr] at hq ⊢; omega
    · rw [if_neg (h n (by omega)), ih2 fun j hj => h j (by omega)]

/-! The loads of FX65 change registers only. -/

@[simp] theorem State.loadRegs_i (s : State) (n : Nat) : (s.loadRegs n).i = s.i := by
  exact forUpTo_frame _ n s fun _ _ => rfl
@[simp] theorem State.loadRegs_pc (s : State) (n : Nat) : (s.loadRegs n).pc = s.pc := by
  exact forUpTo_frame _ n s fun _ _ => rfl
@[simp] theorem State.loadRegs_stack (s : State) (n : Nat) : (s.loadRegs n).stack = s.stack := by
  exact forUpTo_frame _ n s fun _ _ => rfl
@[simp] theorem State.loadRegs_sp (s : State) (n : Nat) : (s.loadRegs n).sp = s.sp := by
  exact forUpTo_frame _ n s fun _ _ => rfl
@[simp] theorem State.loadRegs_mem (s : State) (n : Nat) : (s.loadRegs n).mem = s.mem := by
  exact forUpTo_frame _ n s fun _ _ => rfl
@[simp] theorem State.loadRegs_dt (s : State) (n : Nat) : (s.loadRegs n).dt = s.dt := by
  exact forUpTo_frame _ n s fun _ _ => rfl
@[simp] theorem State.loadRegs_st (s : State) (n : Nat) : (s.loadRegs n).st = s.st := by
  exact forUpTo_frame _ n s fun _ _ => rfl
@[simp] theorem State.loadRegs_disp (s : State) (n : Nat) : (s.loadRegs n).disp = s.disp := by
  exact forUpTo_frame _ n s fun _ _ => rfl
@[simp] theorem State.loadRegs_key (s : State) (n : Nat) : (s.loadRegs n).key = s.key := by
  exact forUpTo_frame _ n s fun _ _ => rfl
@[simp] theorem State.loadRegs_redrawPending (s : State) (n : Nat) : (s.loadRegs n).redrawPending = s.redrawPending := by
  exact forUpTo_frame _ n s fun _ _ => rfl
@[simp] theorem State.loadRegs_outcome (s : State) (n : Nat) : (s.loadRegs n).outcome = s.outcome := by
  exact forUpTo_frame _ n s fun _ _ => rfl
@[simp] theorem State.loadRegs_draws (s : State) (n : Nat) : (s.loadRegs n).draws = s.draws := by
  exact forUpTo_frame _ n s fun _ _ => rfl
@[simp] theorem State.loadRegs_font (s : State) (n : Nat) : (s.loadRegs n).font = s.font := by
  exact forUpTo_frame _ n s fun _ _ => rfl

@[simp] theorem State.loadRegs_readByte (s : State) (n q : Nat) : (s.loadRegs n).readByte q = s.readByte q := by
  simp [State.readByte]
@[simp] theorem State.loadRegs_cell (s : State) (n k : Nat) : (s.loadRegs n).cell k = s.cell k := by
  simp [State.cell]

/-- Registers after the loads of FX65: `V[j]` with `j` below `n` is byte `j` above `I`, the others are as before
(43_index_and_memory.md R145). -/
theorem State.reg_loadRegs (s : State) (n : Nat) (hn : n ≤ 16) (r : Idx) :
    (s.loadRegs n).reg r = if r.val < n then s.readByte (s.elemAddr r.val) else s.reg r := by
  induction n with
  | zero => simp [State.loadRegs]
  | succ n ih =>
    have hb : (s.loadRegs n).readByte ((s.loadRegs n).elemAddr n) = s.readByte (s.elemAddr n) := by
      simp [State.readByte, State.elemAddr]
    have e : s.loadRegs (n + 1) = (s.loadRegs n).setReg (regNo n) (s.readByte (s.elemAddr n)) := by
      rw [← hb]; rfl
    have hr : (regNo n).val = n := by simp [regNo]; omega
    rw [e, State.reg_setReg, ih (by omega)]
    by_cases h : r = regNo n
    · subst h; simp [hr]
    · have : r.val ≠ n := fun e => h (Fin.ext (e.trans hr.symm))
      rw [if_neg h]
      by_cases h2 : r.val < n
      · rw [if_pos h2, if_pos (by omega)]
      · rw [if_neg h2, if_neg (by omega)]

/-! Drawing changes VF and the display only. -/

@[simp] theorem State.togglePixel_i (s : State) (k : Nat) : (s.togglePixel k).i = s.i := by
  unfold State.togglePixel; split <;> rfl
@[simp] theorem State.togglePixel_pc (s : State) (k : Nat) : (s.togglePixel k).pc = s.pc := by
  unfold State.togglePixel; split <;> rfl
@[simp] theorem State.togglePixel_stack (s : State) (k : Nat) : (s.togglePixel k).stack = s.stack := by
  unfold State.togglePixel; split <;> rfl
@[simp] theorem State.togglePixel_sp (s : State) (k : Nat) : (s.togglePixel k).sp = s.sp := by
  unfold State.togglePixel; split <;> rfl
@[simp] theorem State.togglePixel_mem (s : State) (k : Nat) : (s.togglePixel k).mem = s.mem := by
  unfold State.togglePixel; split <;> rfl
@[simp] theorem State.togglePixel_dt (s : State) (k : Nat) : (s.togglePixel k).dt = s.dt := by
  unfold State.togglePixel; split <;> rfl
@[simp] theorem State.togglePixel_st (s : State) (k : Nat) : (s.togglePixel k).st = s.st := by
  unfold State.togglePixel; split <;> rfl
@[simp] theorem State.togglePixel_key (s : State) (k : Nat) : (s.togglePixel k).key = s.key := by
  unfold State.togglePixel; split <;> rfl
@[simp] theorem State.togglePixel_redrawPending (s : State) (k : Nat) : (s.togglePixel k).redrawPending = s.redrawPending := by
  unfold State.togglePixel; split <;> rfl
@[simp] theorem State.togglePixel_outcome (s : State) (k : Nat) : (s.togglePixel k).outcome = s.outcome := by
  unfold State.togglePixel; split <;> rfl
@[simp] theorem State.togglePixel_draws (s : State) (k : Nat) : (s.togglePixel k).draws = s.draws := by
  unfold State.togglePixel; split <;> rfl
@[simp] theorem State.togglePixel_font (s : State) (k : Nat) : (s.togglePixel k).font = s.font := by
  unfold State.togglePixel; split <;> rfl
@[simp] theorem State.drawRow_i (s : State) (x0 y0 r : Nat) : (s.drawRow x0 y0 r).i = s.i := by
  unfold State.drawRow; exact forUpTo_frame State.i 8 s fun _ _ => by split <;> simp
@[simp] theorem State.drawRow_pc (s : State) (x0 y0 r : Nat) : (s.drawRow x0 y0 r).pc = s.pc := by
  unfold State.drawRow; exact forUpTo_frame State.pc 8 s fun _ _ => by split <;> simp
@[simp] theorem State.drawRow_stack (s : State) (x0 y0 r : Nat) : (s.drawRow x0 y0 r).stack = s.stack := by
  unfold State.drawRow; exact forUpTo_frame State.stack 8 s fun _ _ => by split <;> simp
@[simp] theorem State.drawRow_sp (s : State) (x0 y0 r : Nat) : (s.drawRow x0 y0 r).sp = s.sp := by
  unfold State.drawRow; exact forUpTo_frame State.sp 8 s fun _ _ => by split <;> simp
@[simp] theorem State.drawRow_mem (s : State) (x0 y0 r : Nat) : (s.drawRow x0 y0 r).mem = s.mem := by
  unfold State.drawRow; exact forUpTo_frame State.mem 8 s fun _ _ => by split <;> simp
@[simp] theorem State.drawRow_dt (s : State) (x0 y0 r : Nat) : (s.drawRow x0 y0 r).dt = s.dt := by
  unfold State.drawRow; exact forUpTo_frame State.dt 8 s fun _ _ => by split <;> simp
@[simp] theorem State.drawRow_st (s : State) (x0 y0 r : Nat) : (s.drawRow x0 y0 r).st = s.st := by
  unfold State.drawRow; exact forUpTo_frame State.st 8 s fun _ _ => by split <;> simp
@[simp] theorem State.drawRow_key (s : State) (x0 y0 r : Nat) : (s.drawRow x0 y0 r).key = s.key := by
  unfold State.drawRow; exact forUpTo_frame State.key 8 s fun _ _ => by split <;> simp
@[simp] theorem State.drawRow_redrawPending (s : State) (x0 y0 r : Nat) : (s.drawRow x0 y0 r).redrawPending = s.redrawPending := by
  unfold State.drawRow; exact forUpTo_frame State.redrawPending 8 s fun _ _ => by split <;> simp
@[simp] theorem State.drawRow_outcome (s : State) (x0 y0 r : Nat) : (s.drawRow x0 y0 r).outcome = s.outcome := by
  unfold State.drawRow; exact forUpTo_frame State.outcome 8 s fun _ _ => by split <;> simp
@[simp] theorem State.drawRow_draws (s : State) (x0 y0 r : Nat) : (s.drawRow x0 y0 r).draws = s.draws := by
  unfold State.drawRow; exact forUpTo_frame State.draws 8 s fun _ _ => by split <;> simp
@[simp] theorem State.drawRow_font (s : State) (x0 y0 r : Nat) : (s.drawRow x0 y0 r).font = s.font := by
  unfold State.drawRow; exact forUpTo_frame State.font 8 s fun _ _ => by split <;> simp

@[simp] theorem State.togglePixel_readByte (s : State) (k q : Nat) : (s.togglePixel k).readByte q = s.readByte q := by
  simp [State.readByte]
@[simp] theorem State.drawRow_readByte (s : State) (x0 y0 r q : Nat) :
    (s.drawRow x0 y0 r).readByte q = s.readByte q := by simp [State.readByte]

/-- A sprite bit of 1: the cell is toggled and no other, VF is set if the cell was on, and no other register changes
(44_display.md R162). -/
theorem State.togglePixel_spec (s : State) (k : Nat) :
    (∀ q, (s.togglePixel k).cell q = if q = k then s.cell k ^^^ 1 else s.cell q) ∧
    (∀ r, (s.togglePixel k).reg r = if r = 15 ∧ s.cell k ≠ 0 then 1 else s.reg r) := by
  unfold State.togglePixel
  by_cases h : s.cell k = 0
  · rw [if_neg (not_not.mpr h)]
    exact ⟨fun q => s.cell_setCell k q _, fun r => by rw [if_neg fun hr => hr.2 h]; rfl⟩
  · rw [if_pos h]
    exact ⟨fun q => (s.setFlag 1).cell_setCell k q _, fun r => by
      rw [State.setCell_reg, State.setFlag_eq, State.reg_setReg]; simp only [h, ne_eq, not_false_eq_true, and_true]⟩

/-! The rest of a step. -/

/-- One count down, clamped at 0 (40_step_cycle.md R86). -/
theorem countDown_toNat (t : Byte) : (countDown t).toNat = t.toNat - 1 := by
  revert t; decide

/-- The fetched word, as a number (40_step_cycle.md R81). -/
theorem State.readWord_toNat (s : State) (a : Nat) :
    (s.readWord a).toNat = (s.readByte a).toNat * 256 + (s.readByte (a + 1)).toNat := by
  simp only [State.readWord, wordOfBytes, BitVec.toNat_append]
  rw [Nat.shiftLeft_eq, Nat.mul_comm, ← Nat.two_pow_add_eq_or_of_lt (BitVec.isLt _), Nat.mul_comm]

/-- The greatest pressed key below `n` (45_keypad_and_timers.md R172). -/
theorem highestKey_spec (key : Vector Bool 16) (n : Nat) (hn : n ≤ 16) :
    match highestKey key n with
    | none => ∀ k : Idx, k.val < n → key[k] = false
    | some k => k.val < n ∧ key[k] = true ∧ ∀ j : Idx, k < j → j.val < n → key[j] = false := by
  induction n with
  | zero => simp [highestKey]
  | succ n ih =>
    have hv : (Fin.ofNat 16 n).val = n := by simp; omega
    unfold highestKey
    by_cases hp : key[Fin.ofNat 16 n] = true
    · simp only [hp, if_true]
      refine ⟨by omega, trivial, fun j h1 h2 => ?_⟩
      have : n < j.val := by rw [← hv]; exact h1
      omega
    · rw [if_neg hp]
      have last : ∀ j : Idx, j.val < n + 1 → ¬ j.val < n → key[j] = false := by
        intro j h1 h2
        have : j = Fin.ofNat 16 n := Fin.ext (by rw [hv]; omega)
        subst this
        simpa using hp
      have := ih (by omega)
      split at this
      · exact fun k h => if h2 : k.val < n then this k h2 else last k h h2
      · exact ⟨by omega, this.2.1, fun j h1 h2 => if h3 : j.val < n then this.2.2 j h1 h3 else last j h2 h3⟩

end Sys2Proof.Machine
end

