-- ==== Sys2Proof/Laws/Kept.lean ====
section
/-! SUPPORT. Every operation over memory or the display keeps the canonical forms and the two values of a display cell,
and the reset state has them. -/

namespace Sys2Proof.Machine

/-- The memory reset leaves lists nothing, and so is in canonical form. -/
theorem Memory.wf_reset (font : Vector Byte 80) (n : Nat) : Memory.wf font (State.resetWith font n).mem :=
  ⟨List.Pairwise.nil, fun _ h => absurd h List.not_mem_nil⟩

/-- A byte store keeps memory in canonical form (the address is below 4096 by 20_memory.md R41). -/
theorem Memory.wf_writeByte {s : State} (h : Memory.wf s.font s.mem) (a : Nat) (b : Byte) :
    Memory.wf (s.writeByte a b).font (s.writeByte a b).mem :=
  Cells.wf_write h (Nat.mod_lt _ (by decide))

theorem Memory.wf_storeBytes {s : State} (h : Memory.wf s.font s.mem) (a : Nat) (bs : List Byte) :
    Memory.wf (s.storeBytes a bs).font (s.storeBytes a bs).mem := by
  induction bs generalizing s a with
  | nil => exact h
  | cons b bs ih => exact ih (Memory.wf_writeByte h a b) (a + 1)

theorem Memory.wf_storeRegs {s : State} (h : Memory.wf s.font s.mem) (n : Nat) :
    Memory.wf (s.storeRegs n).font (s.storeRegs n).mem :=
  forUpTo_keeps (P := fun t => Memory.wf t.font t.mem) n h fun _ _ _ ht => Memory.wf_writeByte ht _ _

/-- Every pixel a sprite touches is a cell of the display (44_display.md R161). -/
theorem pixelIndex_lt (x0 y0 col r : Nat) : pixelIndex x0 y0 col r < 2048 := by
  unfold pixelIndex; omega

theorem Display.wf_setCell {s : State} (h : Display.wf s.disp) {k : Nat} (hk : k < 2048) (b : Byte) :
    Display.wf (s.setCell k b).disp :=
  Cells.wf_write h hk

/-- A cell reads 0 or 1 in a display whose entries are all 1 (10_state.md R21). -/
theorem State.cell_binary {s : State} (h : s.BinaryDisplay) (k : Nat) : s.cell k = 0 ∨ s.cell k = 1 := by
  revert h
  unfold State.BinaryDisplay State.cell
  generalize s.disp = m
  intro h
  induction m with
  | nil => exact .inl rfl
  | cons c m ih =>
    unfold Cells.read
    split
    · exact .inr (h c List.mem_cons_self)
    · exact ih fun e he => h e (List.mem_cons_of_mem _ he)

/-- The toggle of a display cell keeps the display's canonical form and its two values. -/
theorem Display.kept_togglePixel {s : State} (h : Display.wf s.disp ∧ s.BinaryDisplay) {k : Nat} (hk : k < 2048) :
    Display.wf (s.togglePixel k).disp ∧ (s.togglePixel k).BinaryDisplay := by
  have key : ∀ t : State, t.disp = s.disp → Display.wf (t.setCell k (t.cell k ^^^ 1)).disp ∧
      (t.setCell k (t.cell k ^^^ 1)).BinaryDisplay := by
    intro t ht
    refine ⟨Display.wf_setCell (ht ▸ h.1) hk _, fun c hc => ?_⟩
    have ht2 : t.BinaryDisplay := by simpa [State.BinaryDisplay, ht] using h.2
    have hwf := (Display.wf_setCell (s := t) (ht ▸ h.1) hk (t.cell k ^^^ 1)).2 c hc
    rcases Cells.mem_write hc with rfl | hm
    · rcases State.cell_binary ht2 k with hz | ho
      · simp [hz]
      · simp [ho, Display.unlisted] at hwf
    · exact ht2 c hm
  unfold State.togglePixel
  split
  · exact key _ rfl
  · exact key _ rfl

/-- Drawing a row keeps them. -/
theorem Display.kept_drawRow {s : State} (h : Display.wf s.disp ∧ s.BinaryDisplay) (x0 y0 r : Nat) :
    Display.wf (s.drawRow x0 y0 r).disp ∧ (s.drawRow x0 y0 r).BinaryDisplay := by
  unfold State.drawRow
  refine forUpTo_keeps (P := fun t => Display.wf t.disp ∧ t.BinaryDisplay) 8 h fun k _ t ht => ?_
  split
  · exact Display.kept_togglePixel ht (pixelIndex_lt _ _ _ _)
  · exact ht

end Sys2Proof.Machine
end

