-- ==== Sys2Proof/Laws/PerInstr.lean ====
section
/-! SUPPORT. Statements made of every instruction as syntax, with one lemma for each constructor. -/

namespace Sys2Proof.Laws

/-- The word `encode` gives an instruction selects that instruction's own row of the opcode map (30_encoding.md R64). -/
def EncodeRow.Statement (i : Instr) : Prop := i.row ∈ opcodeMap ∧ i.row.selects (encode i)

/-- A mask acts on each part of a word on its own. -/
theorem mask_append {w v : Nat} {a m p : BitVec w} {b k q : BitVec v} (h1 : a &&& m = p) (h2 : b &&& k = q) :
    (a ++ b) &&& (m ++ k) = p ++ q := by
  rw [BitVec.and_append, h1, h2]

theorem keep (b : BitVec 4) : b &&& 0xF#4 = b := by revert b; decide

/-- A word of format A under the mask of its row: the class is left. -/
theorem formatA_class (c : BitVec 4) (nnn : BitVec 12) : formatA c nnn &&& 0xF000 = c ++ 0#12 :=
  mask_append (k := 0#12) (keep c) BitVec.and_zero

/-- A word of format XK under the mask of its row: the class is left. -/
theorem formatXK_class (c : BitVec 4) (x : Idx) (kk : Byte) : formatXK c x kk &&& 0xF000 = c ++ 0#4 ++ 0#8 :=
  mask_append (k := 0#8) (mask_append (k := 0#4) (keep c) BitVec.and_zero) BitVec.and_zero

/-- A word of format XS under the mask of its row: the class and the low byte are left. -/
theorem formatXK_low (c : BitVec 4) (x : Idx) (kk : Byte) : formatXK c x kk &&& 0xF0FF = c ++ 0#4 ++ kk :=
  mask_append (k := BitVec.allOnes 8) (mask_append (k := 0#4) (keep c) BitVec.and_zero) BitVec.and_allOnes

/-- A word of format XY under the mask of its row: the class and the low nibble are left. -/
theorem formatXY_low (c : BitVec 4) (x y : Idx) (n : BitVec 4) :
    formatXY c x y n &&& 0xF00F = c ++ 0#4 ++ 0#4 ++ n :=
  mask_append (k := 0xF#4) (mask_append (k := 0#4) (mask_append (k := 0#4) (keep c) BitVec.and_zero) BitVec.and_zero)
    (keep n)

/-- A word of format XYN under the mask of its row: the class is left. -/
theorem formatXY_class (c : BitVec 4) (x y : Idx) (n : BitVec 4) :
    formatXY c x y n &&& 0xF000 = c ++ 0#4 ++ 0#4 ++ 0#4 :=
  mask_append (k := 0#4) (mask_append (k := 0#4) (mask_append (k := 0#4) (keep c) BitVec.and_zero) BitVec.and_zero)
    BitVec.and_zero

theorem EncodeRow.op00E0 : EncodeRow.Statement .op00E0 :=
  ⟨by simp [opcodeMap, Instr.row], rfl⟩
theorem EncodeRow.op00EE : EncodeRow.Statement .op00EE :=
  ⟨by simp [opcodeMap, Instr.row], rfl⟩
theorem EncodeRow.op1NNN (nnn : BitVec 12) : EncodeRow.Statement (.op1NNN nnn) :=
  ⟨by simp [opcodeMap, Instr.row], (formatA_class ..).trans rfl⟩
theorem EncodeRow.op2NNN (nnn : BitVec 12) : EncodeRow.Statement (.op2NNN nnn) :=
  ⟨by simp [opcodeMap, Instr.row], (formatA_class ..).trans rfl⟩
theorem EncodeRow.op3XKK (x : Idx) (kk : Byte) : EncodeRow.Statement (.op3XKK x kk) :=
  ⟨by simp [opcodeMap, Instr.row], (formatXK_class ..).trans rfl⟩
theorem EncodeRow.op4XKK (x : Idx) (kk : Byte) : EncodeRow.Statement (.op4XKK x kk) :=
  ⟨by simp [opcodeMap, Instr.row], (formatXK_class ..).trans rfl⟩
theorem EncodeRow.op5XY0 (x y : Idx) : EncodeRow.Statement (.op5XY0 x y) :=
  ⟨by simp [opcodeMap, Instr.row], (formatXY_low ..).trans rfl⟩
theorem EncodeRow.op6XKK (x : Idx) (kk : Byte) : EncodeRow.Statement (.op6XKK x kk) :=
  ⟨by simp [opcodeMap, Instr.row], (formatXK_class ..).trans rfl⟩
theorem EncodeRow.op7XKK (x : Idx) (kk : Byte) : EncodeRow.Statement (.op7XKK x kk) :=
  ⟨by simp [opcodeMap, Instr.row], (formatXK_class ..).trans rfl⟩
theorem EncodeRow.op8XY0 (x y : Idx) : EncodeRow.Statement (.op8XY0 x y) :=
  ⟨by simp [opcodeMap, Instr.row], (formatXY_low ..).trans rfl⟩
theorem EncodeRow.op8XY1 (x y : Idx) : EncodeRow.Statement (.op8XY1 x y) :=
  ⟨by simp [opcodeMap, Instr.row], (formatXY_low ..).trans rfl⟩
theorem EncodeRow.op8XY2 (x y : Idx) : EncodeRow.Statement (.op8XY2 x y) :=
  ⟨by simp [opcodeMap, Instr.row], (formatXY_low ..).trans rfl⟩
theorem EncodeRow.op8XY3 (x y : Idx) : EncodeRow.Statement (.op8XY3 x y) :=
  ⟨by simp [opcodeMap, Instr.row], (formatXY_low ..).trans rfl⟩
theorem EncodeRow.op8XY4 (x y : Idx) : EncodeRow.Statement (.op8XY4 x y) :=
  ⟨by simp [opcodeMap, Instr.row], (formatXY_low ..).trans rfl⟩
theorem EncodeRow.op8XY5 (x y : Idx) : EncodeRow.Statement (.op8XY5 x y) :=
  ⟨by simp [opcodeMap, Instr.row], (formatXY_low ..).trans rfl⟩
theorem EncodeRow.op8XY6 (x y : Idx) : EncodeRow.Statement (.op8XY6 x y) :=
  ⟨by simp [opcodeMap, Instr.row], (formatXY_low ..).trans rfl⟩
theorem EncodeRow.op8XY7 (x y : Idx) : EncodeRow.Statement (.op8XY7 x y) :=
  ⟨by simp [opcodeMap, Instr.row], (formatXY_low ..).trans rfl⟩
theorem EncodeRow.op8XYE (x y : Idx) : EncodeRow.Statement (.op8XYE x y) :=
  ⟨by simp [opcodeMap, Instr.row], (formatXY_low ..).trans rfl⟩
theorem EncodeRow.op9XY0 (x y : Idx) : EncodeRow.Statement (.op9XY0 x y) :=
  ⟨by simp [opcodeMap, Instr.row], (formatXY_low ..).trans rfl⟩
theorem EncodeRow.opANNN (nnn : BitVec 12) : EncodeRow.Statement (.opANNN nnn) :=
  ⟨by simp [opcodeMap, Instr.row], (formatA_class ..).trans rfl⟩
theorem EncodeRow.opBNNN (nnn : BitVec 12) : EncodeRow.Statement (.opBNNN nnn) :=
  ⟨by simp [opcodeMap, Instr.row], (formatA_class ..).trans rfl⟩
theorem EncodeRow.opCXKK (x : Idx) (kk : Byte) : EncodeRow.Statement (.opCXKK x kk) :=
  ⟨by simp [opcodeMap, Instr.row], (formatXK_class ..).trans rfl⟩
theorem EncodeRow.opDXYN (x y : Idx) (n : Fin 16) : EncodeRow.Statement (.opDXYN x y n) :=
  ⟨by simp [opcodeMap, Instr.row], (formatXY_class ..).trans rfl⟩
theorem EncodeRow.opEX9E (x : Idx) : EncodeRow.Statement (.opEX9E x) :=
  ⟨by simp [opcodeMap, Instr.row], (formatXK_low ..).trans rfl⟩
theorem EncodeRow.opEXA1 (x : Idx) : EncodeRow.Statement (.opEXA1 x) :=
  ⟨by simp [opcodeMap, Instr.row], (formatXK_low ..).trans rfl⟩
theorem EncodeRow.opFX07 (x : Idx) : EncodeRow.Statement (.opFX07 x) :=
  ⟨by simp [opcodeMap, Instr.row], (formatXK_low ..).trans rfl⟩
theorem EncodeRow.opFX0A (x : Idx) : EncodeRow.Statement (.opFX0A x) :=
  ⟨by simp [opcodeMap, Instr.row], (formatXK_low ..).trans rfl⟩
theorem EncodeRow.opFX15 (x : Idx) : EncodeRow.Statement (.opFX15 x) :=
  ⟨by simp [opcodeMap, Instr.row], (formatXK_low ..).trans rfl⟩
theorem EncodeRow.opFX18 (x : Idx) : EncodeRow.Statement (.opFX18 x) :=
  ⟨by simp [opcodeMap, Instr.row], (formatXK_low ..).trans rfl⟩
theorem EncodeRow.opFX1E (x : Idx) : EncodeRow.Statement (.opFX1E x) :=
  ⟨by simp [opcodeMap, Instr.row], (formatXK_low ..).trans rfl⟩
theorem EncodeRow.opFX29 (x : Idx) : EncodeRow.Statement (.opFX29 x) :=
  ⟨by simp [opcodeMap, Instr.row], (formatXK_low ..).trans rfl⟩
theorem EncodeRow.opFX33 (x : Idx) : EncodeRow.Statement (.opFX33 x) :=
  ⟨by simp [opcodeMap, Instr.row], (formatXK_low ..).trans rfl⟩
theorem EncodeRow.opFX55 (x : Idx) : EncodeRow.Statement (.opFX55 x) :=
  ⟨by simp [opcodeMap, Instr.row], (formatXK_low ..).trans rfl⟩
theorem EncodeRow.opFX65 (x : Idx) : EncodeRow.Statement (.opFX65 x) :=
  ⟨by simp [opcodeMap, Instr.row], (formatXK_low ..).trans rfl⟩

end Sys2Proof.Laws
end

