-- ==== Sys2Proof/Laws/Step.lean ====
section
/-! SUPPORT. What an execute phase and a step can do, said once. -/

namespace Sys2Proof.Machine

/-- Every instruction answers a next state in every state (60_exceptions.md R200, R217). -/
theorem exec_next (i : Instr) (s : State) : ∃ t, exec i s = .next t := by
  cases i
  case op00EE => simp only [exec, exec00EE]; split <;> exact ⟨_, rfl⟩
  case op2NNN => simp only [exec, exec2NNN]; split <;> exact ⟨_, rfl⟩
  case opFX0A => simp only [exec, execFX0A]; split <;> exact ⟨_, rfl⟩
  all_goals exact ⟨_, rfl⟩

/-- The state an unrecognised word leaves before the tick (40_step_cycle.md R85). -/
theorem unknownWord_eq (s : State) :
    unknownWord s = .next ((s.setPc (s.pc + 2)).setOutcome (.unknownInstruction s.fetch s.pc)) := rfl

/-- A step is the execute phase of what the fetched word selects, then the tick (40_step_cycle.md R80). -/
theorem step_cases {s t : State} (h : step s = .next t) :
    (∃ i m, decodeWord s.fetch = .ok i ∧ exec i s = .next m ∧ t = m.tick) ∨
    (∃ e, decodeWord s.fetch = .error e ∧
      t = ((s.setPc (s.pc + 2)).setOutcome (.unknownInstruction s.fetch s.pc)).tick) := by
  unfold step execFetched at h
  split at h
  · rename_i i hi
    obtain ⟨m, hm⟩ := exec_next i s
    rw [hm] at h
    exact .inl ⟨i, m, hi, hm, (Host.Outcome.next.inj h).symm⟩
  · rename_i e he
    exact .inr ⟨e, he, (Host.Outcome.next.inj h).symm⟩

/-- The step of a state whose fetched word selects an instruction. -/
theorem step_of_exec {s m : State} {i : Instr} (hd : decodeWord s.fetch = .ok i) (he : exec i s = .next m) :
    step s = .next m.tick := by
  unfold step execFetched
  rw [hd]
  simp only [he]
  rfl

/-- The step of a state whose fetched word is unrecognised. -/
theorem step_of_unknown {s : State} {e : Unrecognised} (hd : decodeWord s.fetch = .error e) :
    step s = .next ((s.setPc (s.pc + 2)).setOutcome (.unknownInstruction s.fetch s.pc)).tick := by
  unfold step execFetched
  rw [hd]
  rfl

end Sys2Proof.Machine
end

