-- ==== Sys2Proof/Tests/Slice0.lean ====
section
/-! SUPPORT. Tests of the model against the spec's own examples and vectors (95_test_vectors.md, 30_encoding.md section 5):
every expected result is the spec's. A vector's id stands in the comment before its test. -/

namespace Sys2Proof.Tests

open Sys2Proof.Machine

/-! The opcode map and the decoder. -/

/-- R160 -/
theorem test_decode_00E0 : decodeWord 0x00E0 = .ok (.op00E0) ∧ encode (.op00E0) = 0x00E0 := ⟨rfl, by decide⟩
/-- R100 -/
theorem test_decode_00EE : decodeWord 0x00EE = .ok (.op00EE) ∧ encode (.op00EE) = 0x00EE := ⟨rfl, by decide⟩
/-- R101 -/
theorem test_decode_1NNN : decodeWord 0x1204 = .ok (.op1NNN 0x204) ∧ encode (.op1NNN 0x204) = 0x1204 := ⟨rfl, by decide⟩
/-- section 5 -/
theorem test_decode_2NNN : decodeWord 0x220A = .ok (.op2NNN 0x20A) ∧ encode (.op2NNN 0x20A) = 0x220A := ⟨rfl, by decide⟩
/-- R103 -/
theorem test_decode_3XKK : decodeWord 0x3100 = .ok (.op3XKK 1 0x00) ∧ encode (.op3XKK 1 0x00) = 0x3100 := ⟨rfl, by decide⟩
/-- R104 -/
theorem test_decode_4XKK : decodeWord 0x4211 = .ok (.op4XKK 2 0x11) ∧ encode (.op4XKK 2 0x11) = 0x4211 := ⟨rfl, by decide⟩
/-- R105 -/
theorem test_decode_5XY0 : decodeWord 0x5340 = .ok (.op5XY0 3 4) ∧ encode (.op5XY0 3 4) = 0x5340 := ⟨rfl, by decide⟩
/-- section 5 -/
theorem test_decode_6XKK : decodeWord 0x600A = .ok (.op6XKK 0 0x0A) ∧ encode (.op6XKK 0 0x0A) = 0x600A := ⟨rfl, by decide⟩
/-- R121 -/
theorem test_decode_7XKK : decodeWord 0x71FF = .ok (.op7XKK 1 0xFF) ∧ encode (.op7XKK 1 0xFF) = 0x71FF := ⟨rfl, by decide⟩
/-- R122 -/
theorem test_decode_8XY0 : decodeWord 0x8120 = .ok (.op8XY0 1 2) ∧ encode (.op8XY0 1 2) = 0x8120 := ⟨rfl, by decide⟩
/-- R123 -/
theorem test_decode_8XY1 : decodeWord 0x8011 = .ok (.op8XY1 0 1) ∧ encode (.op8XY1 0 1) = 0x8011 := ⟨rfl, by decide⟩
/-- R124 -/
theorem test_decode_8XY2 : decodeWord 0x8012 = .ok (.op8XY2 0 1) ∧ encode (.op8XY2 0 1) = 0x8012 := ⟨rfl, by decide⟩
/-- R125 -/
theorem test_decode_8XY3 : decodeWord 0x8013 = .ok (.op8XY3 0 1) ∧ encode (.op8XY3 0 1) = 0x8013 := ⟨rfl, by decide⟩
/-- section 5 -/
theorem test_decode_8XY4 : decodeWord 0x8014 = .ok (.op8XY4 0 1) ∧ encode (.op8XY4 0 1) = 0x8014 := ⟨rfl, by decide⟩
/-- S3b -/
theorem test_decode_8XY5 : decodeWord 0x8015 = .ok (.op8XY5 0 1) ∧ encode (.op8XY5 0 1) = 0x8015 := ⟨rfl, by decide⟩
/-- section 5 -/
theorem test_decode_8XY6 : decodeWord 0x8AB6 = .ok (.op8XY6 0xA 0xB) ∧ encode (.op8XY6 0xA 0xB) = 0x8AB6 := ⟨rfl, by decide⟩
/-- R129 -/
theorem test_decode_8XY7 : decodeWord 0x8017 = .ok (.op8XY7 0 1) ∧ encode (.op8XY7 0 1) = 0x8017 := ⟨rfl, by decide⟩
/-- R130 -/
theorem test_decode_8XYE : decodeWord 0x820E = .ok (.op8XYE 2 0) ∧ encode (.op8XYE 2 0) = 0x820E := ⟨rfl, by decide⟩
/-- R106 -/
theorem test_decode_9XY0 : decodeWord 0x9340 = .ok (.op9XY0 3 4) ∧ encode (.op9XY0 3 4) = 0x9340 := ⟨rfl, by decide⟩
/-- R140 -/
theorem test_decode_ANNN : decodeWord 0xA300 = .ok (.opANNN 0x300) ∧ encode (.opANNN 0x300) = 0xA300 := ⟨rfl, by decide⟩
/-- R108 -/
theorem test_decode_BNNN : decodeWord 0xB300 = .ok (.opBNNN 0x300) ∧ encode (.opBNNN 0x300) = 0xB300 := ⟨rfl, by decide⟩
/-- R132 -/
theorem test_decode_CXKK : decodeWord 0xC30F = .ok (.opCXKK 3 0x0F) ∧ encode (.opCXKK 3 0x0F) = 0xC30F := ⟨rfl, by decide⟩
/-- section 5 -/
theorem test_decode_DXYN : decodeWord 0xD125 = .ok (.opDXYN 1 2 5) ∧ encode (.opDXYN 1 2 5) = 0xD125 := ⟨rfl, by decide⟩
/-- R170 -/
theorem test_decode_EX9E : decodeWord 0xE09E = .ok (.opEX9E 0) ∧ encode (.opEX9E 0) = 0xE09E := ⟨rfl, by decide⟩
/-- R171 -/
theorem test_decode_EXA1 : decodeWord 0xE0A1 = .ok (.opEXA1 0) ∧ encode (.opEXA1 0) = 0xE0A1 := ⟨rfl, by decide⟩
/-- R173 -/
theorem test_decode_FX07 : decodeWord 0xF107 = .ok (.opFX07 1) ∧ encode (.opFX07 1) = 0xF107 := ⟨rfl, by decide⟩
/-- R172 -/
theorem test_decode_FX0A : decodeWord 0xF20A = .ok (.opFX0A 2) ∧ encode (.opFX0A 2) = 0xF20A := ⟨rfl, by decide⟩
/-- R174 -/
theorem test_decode_FX15 : decodeWord 0xF015 = .ok (.opFX15 0) ∧ encode (.opFX15 0) = 0xF015 := ⟨rfl, by decide⟩
/-- R175 -/
theorem test_decode_FX18 : decodeWord 0xF318 = .ok (.opFX18 3) ∧ encode (.opFX18 3) = 0xF318 := ⟨rfl, by decide⟩
/-- R141 -/
theorem test_decode_FX1E : decodeWord 0xF21E = .ok (.opFX1E 2) ∧ encode (.opFX1E 2) = 0xF21E := ⟨rfl, by decide⟩
/-- R142 -/
theorem test_decode_FX29 : decodeWord 0xF029 = .ok (.opFX29 0) ∧ encode (.opFX29 0) = 0xF029 := ⟨rfl, by decide⟩
/-- R143 -/
theorem test_decode_FX33 : decodeWord 0xF033 = .ok (.opFX33 0) ∧ encode (.opFX33 0) = 0xF033 := ⟨rfl, by decide⟩
/-- R144 -/
theorem test_decode_FX55 : decodeWord 0xF155 = .ok (.opFX55 1) ∧ encode (.opFX55 1) = 0xF155 := ⟨rfl, by decide⟩
/-- section 5 -/
theorem test_decode_FX65 : decodeWord 0xF265 = .ok (.opFX65 2) ∧ encode (.opFX65 2) = 0xF265 := ⟨rfl, by decide⟩

/-- E1: the source's own unknown word, an ill-formed word of class 0 -/
theorem test_ill_formed_class0 : wellFormedWord 0x0000 = false ∧ decodeWord 0x0000 = .error .class0 := ⟨by decide, rfl⟩
/-- E5 -/
theorem test_ill_formed_class5 : wellFormedWord 0x5121 = false ∧ decodeWord 0x5121 = .error .class5 := ⟨by decide, rfl⟩
/-- E6 -/
theorem test_ill_formed_class8 : wellFormedWord 0x8008 = false ∧ decodeWord 0x8008 = .error .class8 := ⟨by decide, rfl⟩
/-- E8 -/
theorem test_ill_formed_class9 : wellFormedWord 0x9001 = false ∧ decodeWord 0x9001 = .error .class9 := ⟨by decide, rfl⟩
/-- E9 -/
theorem test_ill_formed_classE : wellFormedWord 0xE09F = false ∧ decodeWord 0xE09F = .error .classE := ⟨by decide, rfl⟩
/-- E12 -/
theorem test_ill_formed_classF : wellFormedWord 0xF01F = false ∧ decodeWord 0xF01F = .error .classF := ⟨by decide, rfl⟩
/-- E14, a well-formed word -/
theorem test_well_formed : wellFormedWord 0xF165 = true := by decide
/-- R60: an instruction has two bytes -/
theorem test_truncated : decodeBytes [0x60] = .error .truncated := rfl
/-- R60, R61: the table's numbering -/
theorem test_table_word : decodeTableWord 16 0xD125 = some (.opDXYN 1 2 5) := rfl
/-- R64: 34 rows -/
theorem test_opcode_map_length : opcodeMap.length = 34 := rfl
/-- R61: the bytes in memory order, section 5 -/
theorem test_encodeBytes : encodeBytes (.opDXYN 1 2 5) = [0xD1, 0x25] := by decide

/-! One step on a small state. -/

/-- The reset state with the conventional font, `redrawPending` cleared (the conventions of 95_test_vectors.md). -/
def base : State := (State.resetWith Config.conventionalFont 0).setRedraw false

/-- `base` with the word `w` at `pc`. -/
def atPc (pc : Addr) (w : Nat) : State := (base.setPc pc).withFetchWord 16 w

/-- Whether one step of `s` answers a next state of which `p` holds. -/
def after (s : State) (p : State → Bool) : Bool :=
  match step s with
  | .next t => p t
  | .fault _ => false
  | .refused _ => false

/-- The latch with these keys down. -/
def keys (l : List Nat) : Vector Bool 16 := Vector.ofFn fun k => l.contains k.val

/-- The cells that are on. -/
def on (s : State) : List Nat := s.disp.map Prod.fst

/-- CF1 -/
theorem test_CF1 : after (((atPc 0x20C 0x00EE).setSp 1).setStack 0 0x0204) (fun t => t.sp == 0 && t.pc == 0x206 && t.stack[0] == 0x204) = true := by decide
/-- S8a, CF2: the stack condition leaves pc and sp -/
theorem test_S8a : after ((atPc 0x300 0x00EE)) (fun t => t.outcome == .stackUnderflow 0x300 && t.pc == 0x300 && t.sp == 0) = true := by decide
/-- CF5: a jump to itself still ticks -/
theorem test_CF5 : after ((atPc 0x20A 0x120A).setDt 3) (fun t => t.pc == 0x20A && t.dt == 2 && t.outcome == .ok) = true := by decide
/-- CF6: an odd target -/
theorem test_CF6 : after ((atPc 0x200 0x1FFF)) (fun t => t.pc == 0xFFF && t.outcome == .ok) = true := by decide
/-- CF8: the sixteenth call -/
theorem test_CF8 : after ((atPc 0xF00 0x2ABC).setSp 15) (fun t => t.stack[15] == 0xF00 && t.sp == 16 && t.pc == 0xABC && t.outcome == .ok) = true := by decide
/-- S8b, CF9: the seventeenth call -/
theorem test_S8b : after (((atPc 0xF00 0x2ABC).setSp 16).setStack 15 0x1234) (fun t => t.outcome == .stackOverflow 0xF00 && t.sp == 16 && t.stack[15] == 0x1234 && t.pc == 0xF00) = true := by decide
/-- CF10 -/
theorem test_CF10 : after ((atPc 0x208 0x3100)) (fun t => t.pc == 0x20C) = true := by decide
/-- CF11 -/
theorem test_CF11 : after ((atPc 0x208 0x3100).setReg 1 1) (fun t => t.pc == 0x20A) = true := by decide
/-- CF12 -/
theorem test_CF12 : after ((atPc 0x300 0x4211).setReg 2 0x10) (fun t => t.pc == 0x304) = true := by decide
/-- CF13 -/
theorem test_CF13 : after ((atPc 0x300 0x4210).setReg 2 0x10) (fun t => t.pc == 0x302) = true := by decide
/-- CF14 -/
theorem test_CF14 : after (((atPc 0x210 0x5340).setReg 3 0x7F).setReg 4 0x7F) (fun t => t.pc == 0x214) = true := by decide
/-- CF15 -/
theorem test_CF15 : after (((atPc 0x210 0x5340).setReg 3 0x7F).setReg 4 0x7E) (fun t => t.pc == 0x212) = true := by decide
/-- CF17 -/
theorem test_CF17 : after (((atPc 0x210 0x9340).setReg 3 1).setReg 4 2) (fun t => t.pc == 0x214) = true := by decide
/-- CF19: X = Y never skips -/
theorem test_CF19 : after ((atPc 0x210 0x9AA0).setReg 10 0x33) (fun t => t.pc == 0x212) = true := by decide
/-- CF20 -/
theorem test_CF20 : after ((atPc 0x200 0xB300).setReg 0 4) (fun t => t.pc == 0x304) = true := by decide
/-- CF21: pc is not masked -/
theorem test_CF21 : after ((atPc 0x200 0xBFFF).setReg 0 0xFF) (fun t => t.pc == 0x10FE) = true := by decide
/-- CF23: a fetch across the end of memory -/
theorem test_CF23 : after ((atPc 0xFFF 0x6A12)) (fun t => t.reg 10 == 0x12 && t.pc == 0x1001) = true := by decide
/-- CF24: pc wraps at 16 bits -/
theorem test_CF24 : after ((atPc 0xFFFE 0x3000)) (fun t => t.pc == 2) = true := by decide
/-- AR1 -/
theorem test_AR1 : after ((atPc 0x200 0x600A)) (fun t => t.reg 0 == 0x0A && t.pc == 0x202) = true := by decide
/-- AR2 -/
theorem test_AR2 : after ((atPc 0x200 0x6FAB)) (fun t => t.reg 15 == 0xAB) = true := by decide
/-- AR3 -/
theorem test_AR3 : after ((atPc 0x200 0x71FF).setReg 1 5) (fun t => t.reg 1 == 4 && t.reg 15 == 0) = true := by decide
/-- AR4: no flag effect -/
theorem test_AR4 : after (((atPc 0x200 0x7101).setReg 1 0xFF).setReg 15 0x77) (fun t => t.reg 1 == 0 && t.reg 15 == 0x77) = true := by decide
/-- AR5 -/
theorem test_AR5 : after ((atPc 0x200 0x8120).setReg 2 0x33) (fun t => t.reg 1 == 0x33) = true := by decide
/-- AR6 -/
theorem test_AR6 : after ((((atPc 0x200 0x8011).setReg 0 0xF0).setReg 1 0x0F).setReg 15 9) (fun t => t.reg 0 == 0xFF && t.reg 15 == 9) = true := by decide
/-- AR7 -/
theorem test_AR7 : after ((((atPc 0x200 0x8012).setReg 0 0xF0).setReg 1 0x3C).setReg 15 9) (fun t => t.reg 0 == 0x30 && t.reg 15 == 9) = true := by decide
/-- AR8 -/
theorem test_AR8 : after ((((atPc 0x200 0x8013).setReg 0 0xF0).setReg 1 0x3C).setReg 15 9) (fun t => t.reg 0 == 0xCC && t.reg 15 == 9) = true := by decide
/-- AR9: X = Y -/
theorem test_AR9 : after ((atPc 0x200 0x8003).setReg 0 0xF0) (fun t => t.reg 0 == 0) = true := by decide
/-- S3a, AR10 -/
theorem test_S3a : after (((atPc 0x200 0x8014).setReg 0 0xFF).setReg 1 1) (fun t => t.reg 0 == 0 && t.reg 15 == 1) = true := by decide
/-- AR14: X = 15, the carry is overwritten -/
theorem test_AR14 : after (((atPc 0x200 0x8F14).setReg 15 0x80).setReg 1 0x90) (fun t => t.reg 15 == 0x10) = true := by decide
/-- S3b, AR17 -/
theorem test_S3b : after (((atPc 0x200 0x8015).setReg 0 5).setReg 1 0x0A) (fun t => t.reg 0 == 0xFB && t.reg 15 == 0) = true := by decide
/-- AR24: Y = 15, the flag just written is subtracted -/
theorem test_AR24 : after (((atPc 0x200 0x80F5).setReg 0 0x30).setReg 15 0x20) (fun t => t.reg 0 == 0x2F && t.reg 15 == 1) = true := by decide
/-- AR28: Y ignored -/
theorem test_AR28 : after (((atPc 0x200 0x8236).setReg 2 1).setReg 3 0xFF) (fun t => t.reg 2 == 0 && t.reg 3 == 0xFF && t.reg 15 == 1) = true := by decide
/-- AR29: X = 15 -/
theorem test_AR29 : after ((atPc 0x200 0x8F06).setReg 15 3) (fun t => t.reg 15 == 0) = true := by decide
/-- AR30 -/
theorem test_AR30 : after (((atPc 0x200 0x8017).setReg 0 0x0A).setReg 1 5) (fun t => t.reg 0 == 0xFB && t.reg 15 == 0) = true := by decide
/-- AR34: Y = 15 -/
theorem test_AR34 : after (((atPc 0x200 0x80F7).setReg 0 5).setReg 15 9) (fun t => t.reg 0 == 0xFC && t.reg 15 == 1) = true := by decide
/-- AR36 -/
theorem test_AR36 : after ((atPc 0x200 0x820E).setReg 2 0x81) (fun t => t.reg 2 == 2 && t.reg 15 == 1) = true := by decide
/-- AR39: X = 15 -/
theorem test_AR39 : after ((atPc 0x200 0x8F0E).setReg 15 0x81) (fun t => t.reg 15 == 2) = true := by decide
/-- IM1 -/
theorem test_IM1 : after ((atPc 0x200 0xA300).setI 0xFFFF) (fun t => t.i == 0x300) = true := by decide
/-- IM5: the exact sum decides the flag -/
theorem test_IM5 : after (((atPc 0x200 0xF21E).setI 0xFFFF).setReg 2 1) (fun t => t.i == 0 && t.reg 15 == 1) = true := by decide
/-- IM8: X = 15, the flag just written is added -/
theorem test_IM8 : after (((atPc 0x200 0xFF1E).setI 0xFF0).setReg 15 0x20) (fun t => t.i == 0xFF1 && t.reg 15 == 1) = true := by decide
/-- IM9 -/
theorem test_IM9 : after ((atPc 0x200 0xF029).setReg 0 0x0A) (fun t => t.i == 0x32) = true := by decide
/-- IM11: no masking above 15 -/
theorem test_IM11 : after ((atPc 0x200 0xF029).setReg 0 0xFF) (fun t => t.i == 0x4FB) = true := by decide
/-- IM13 -/
theorem test_IM13 : after (((atPc 0x200 0xF033).setI 0x300).setReg 0 0xEA) (fun t => t.readByte 0x300 == 2 && t.readByte 0x301 == 3 && t.readByte 0x302 == 4 && t.i == 0x300) = true := by decide
/-- IM18: across the end of memory -/
theorem test_IM18 : after (((atPc 0x200 0xF033).setI 0xFFF).setReg 0 234) (fun t => t.readByte 0xFFF == 2 && t.readByte 0 == 3 && t.readByte 1 == 4) = true := by decide
/-- IM19 -/
theorem test_IM19 : after (((((atPc 0x200 0xF155).setI 0x400).setReg 0 0x11).setReg 1 0x22).setReg 2 0x33) (fun t => t.readByte 0x400 == 0x11 && t.readByte 0x401 == 0x22 && t.readByte 0x402 == 0 && t.i == 0x402) = true := by decide
/-- IM24: I wraps at 16 bits -/
theorem test_IM24 : after ((((atPc 0x200 0xF155).setI 0xFFFF).setReg 0 0x11).setReg 1 0x22) (fun t => t.readByte 0xFFF == 0x11 && t.readByte 0 == 0x22 && t.i == 1) = true := by decide
/-- IM22 -/
theorem test_IM22 : after ((((atPc 0x200 0xF265).setI 0x300).storeBytes 0x300 [2, 3, 4, 9]).setReg 3 0x77) (fun t => t.reg 0 == 2 && t.reg 1 == 3 && t.reg 2 == 4 && t.reg 3 == 0x77 && t.i == 0x303) = true := by decide
/-- IM23: with the conventional font -/
theorem test_IM23 : after ((atPc 0x200 0xFF65)) (fun t => t.v.toList == [0xF0, 0x90, 0x90, 0x90, 0xF0, 0x20, 0x60, 0x20, 0x20, 0x70, 0xF0, 0x10, 0xF0, 0x80, 0xF0, 0xF0] && t.i == 0x10) = true := by decide
/-- S4, DI1 -/
theorem test_S4 : after ((((atPc 0x200 0x00E0).setCell 0 1).setCell 5 1).setReg 15 7) (fun t => t.disp == [] && t.reg 15 == 7 && t.redrawPending) = true := by decide
/-- DI2 -/
theorem test_DI2 : after ((atPc 0x200 0x00E0)) (fun t => t.disp == [] && t.redrawPending) = true := by decide
/-- S6, DI3: columns wrap -/
theorem test_S6 : after (((((atPc 0x200 0xD011).setReg 0 63).setI 0x300).writeByte 0x300 0xFF).setReg 15 9) (fun t => on t == [0, 1, 2, 3, 4, 5, 6, 63] && t.reg 15 == 0 && t.redrawPending && t.i == 0x300) = true := by decide
/-- DI9: both axes wrap -/
theorem test_DI9 : after (((((atPc 0x200 0xD012).setReg 0 62).setReg 1 31).setI 0x300).storeBytes 0x300 [0xC3, 0x81]) (fun t => on t == [5, 62, 1988, 1989, 2046, 2047] && t.reg 15 == 0) = true := by decide
/-- DI11: X = 15, the origin is the old VF -/
theorem test_DI11 : after (((((atPc 0x200 0xDF11).setReg 15 5).setReg 1 2).setI 0x300).writeByte 0x300 0x80) (fun t => on t == [133] && t.reg 15 == 0) = true := by decide
/-- DI13: a collision -/
theorem test_DI13 : after (((((atPc 0x200 0xD011).setI 0x300).writeByte 0x300 0xA0).setCell 0 1).setCell 1 1) (fun t => on t == [1, 2] && t.reg 15 == 1) = true := by decide
/-- KT1 -/
theorem test_KT1 : after (((atPc 0x200 0xE09E).setReg 0 5).setKey (keys [5])) (fun t => t.pc == 0x204) = true := by decide
/-- KT3: the low four bits select -/
theorem test_KT3 : after (((atPc 0x200 0xE09E).setReg 0 0x1A).setKey (keys [10])) (fun t => t.pc == 0x204) = true := by decide
/-- KT4 -/
theorem test_KT4 : after ((atPc 0x200 0xE0A1).setReg 0 5) (fun t => t.pc == 0x204) = true := by decide
/-- KT6 -/
theorem test_KT6 : after (((atPc 0x200 0xE0A1).setReg 0 0xF5).setKey (keys [5])) (fun t => t.pc == 0x202) = true := by decide
/-- KT7: a waiting step still ticks -/
theorem test_KT7 : after (((atPc 0x206 0xF20A).setReg 2 0x77).setDt 2) (fun t => t.pc == 0x206 && t.reg 2 == 0x77 && t.dt == 1 && t.outcome == .ok) = true := by decide
/-- KT8: the highest key -/
theorem test_KT8 : after (((atPc 0x206 0xF20A).setReg 2 0x77).setKey (keys [3, 9])) (fun t => t.reg 2 == 9 && t.pc == 0x208) = true := by decide
/-- KT11: read before the tick -/
theorem test_KT11 : after ((atPc 0x200 0xF107).setDt 4) (fun t => t.reg 1 == 4 && t.dt == 3) = true := by decide
/-- KT12 -/
theorem test_KT12 : after ((atPc 0x200 0xF107).setReg 1 9) (fun t => t.reg 1 == 0 && t.dt == 0) = true := by decide
/-- KT13: ticked in the same step -/
theorem test_KT13 : after ((atPc 0x200 0xF015).setReg 0 5) (fun t => t.dt == 4) = true := by decide
/-- KT14 -/
theorem test_KT14 : after ((atPc 0x200 0xF015).setDt 9) (fun t => t.dt == 0) = true := by decide
/-- KT17 -/
theorem test_KT17 : after ((atPc 0x200 0xF318).setReg 3 2) (fun t => t.st == 1) = true := by decide
/-- KT19 -/
theorem test_KT19 : after (((atPc 0x200 0xF318).setSt 7).setDt 1) (fun t => t.st == 0 && t.dt == 0) = true := by decide

/-- AR41: draw 0xA7 -/
theorem test_AR41 (h : Config.rnd 0 = 0xA7) : ∃ t, step (atPc 0x200 0xC30F) = .next t ∧ t.reg 3 = 0x07 ∧ t.draws = 1 := by
  refine ⟨_, rfl, ?_, rfl⟩
  show Config.rnd 0 &&& 0x0F = 0x07
  rw [h]; rfl
/-- AR42: a mask of 0 gives 0, whatever the draw -/
theorem test_AR42 : ∃ t, step ((atPc 0x200 0xC300).setReg 3 0x55) = .next t ∧ t.reg 3 = 0 := by
  refine ⟨_, rfl, ?_⟩
  show Config.rnd 0 &&& 0 = 0
  simp
/-- E1: an unknown word advances pc, reports itself, and the step ticks -/
theorem test_E1 : after ((atPc 0x200 0x0000).setDt 1) (fun t => t.pc == 0x202 && t.dt == 0 &&
    t.outcome == .unknownInstruction 0x0000 0x200 && t.v == base.v) = true := by decide
/-- RL6: a step right after reset -/
theorem test_RL6 : ∃ t, step State.reset = .next t ∧ t.pc = 0x202 ∧ t.outcome = .unknownInstruction 0 0x200 :=
  ⟨_, rfl, rfl, rfl⟩
/-- RL3 -/
theorem test_RL3 : (base.loadProgram [0x12, 0x00]).1 = .ok ∧ (base.loadProgram [0x12, 0x00]).2.mem = [(0x200, 0x12)] := by
  decide
/-- RL7: a step that does not draw leaves the flag -/
theorem test_RL7 : after ((State.resetWith Config.conventionalFont 0).clearRedrawPending.withFetchWord 16 0x6000)
    (fun t => !t.redrawPending) = true := by decide
/-- RL1: reset from any state -/
theorem test_RL1 : (((base.setReg 3 7).setDt 9).writeByte 0 0x99).resetOp = State.resetWith Config.conventionalFont 0 := by
  decide
/-- S5 and P4: the same sprite drawn twice is erased, and VF is 1 after the second draw -/
theorem test_S5 : after ((((atPc 0x206 0xD012).setReg 0 62).setReg 1 31).setI 0x20C |>.storeBytes 0x20C [0xC3, 0x81])
    (fun t => after ((t.setPc 0x206)) fun u => u.disp == [] && u.reg 15 == 1) = true := by decide
/-- The canonical form refuses an entry equal to what an unlisted address reads as, an address twice, and one too high. -/
theorem test_memory_wf : ¬ Memory.wf Config.conventionalFont [(0x200, 0)] ∧
    ¬ Memory.wf Config.conventionalFont [(0x200, 1), (0x200, 2)] ∧ ¬ Memory.wf Config.conventionalFont [(0x1000, 1)] ∧
    Memory.wf Config.conventionalFont [(0, 1), (0x200, 2)] := by decide

/-! Witnesses: for each obligation with hypotheses, states and operands that meet them, clause by clause. -/

/-- A word that decodes to one instruction decodes to no other. -/
theorem decode_ne {s : State} {i j : Instr} (h : decodeWord s.fetch = .ok i) (hne : i ≠ j) : decodeWord s.fetch ≠ .ok j :=
  fun e => hne (Except.ok.inj (h.symm.trans e))

/-- An unrecognised word decodes to no instruction. -/
theorem decode_error_ne {s : State} {e : Unrecognised} (h : decodeWord s.fetch = .error e) (j : Instr) :
    decodeWord s.fetch ≠ .ok j := by rw [h]; nofun

/-- A state at a plain instruction, 6105. -/
def atLoad : State := atPc 0x200 0x6105

/-- A state at a sprite of one row of ones at the bottom right corner, over one pixel that is on. -/
def atSprite : State :=
  (((((atPc 0x200 0xD011).setReg 0 63).setReg 1 31).setI 0x300).writeByte 0x300 0xFF).setCell 2047 1

theorem witness_EncodeOfDecodeIsWord : decodeWord 0xFF65 = .ok (.opFX65 15) ∧ decodeWord 0x8FFE = .ok (.op8XYE 15 15) :=
  ⟨rfl, rfl⟩
theorem witness_DecoderAgreesWithOpcodeMap : decodeWord 0x9FF0 = .ok (.op9XY0 15 15) ∧ decodeWord 0xFFFF = .error .classF :=
  ⟨rfl, rfl⟩
theorem witness_StepRunsDecodedInstruction :
    decodeBytes [atLoad.readByte atLoad.pc.toNat, atLoad.readByte (atLoad.pc.toNat + 1)] = .ok (.op6XKK 1 5, []) ∧
    ∃ m, exec (.op6XKK 1 5) atLoad = .next m := ⟨rfl, _, rfl⟩
theorem witness_FetchedWordIsBigEndian : (atPc 0xFFF 0x6A12).pc = 0xFFF := rfl
theorem witness_UnrecognisedWordOnlyAdvancesPc : decodeWord (atPc 0xFFFF 0x5121).fetch = .error .class5 := rfl
theorem witness_TimersCountInEveryStep :
    (∃ t, step atLoad = .next t) ∧ (∀ x, decodeWord atLoad.fetch ≠ .ok (.opFX15 x)) ∧
    ∀ x, decodeWord atLoad.fetch ≠ .ok (.opFX18 x) :=
  ⟨⟨_, rfl⟩, fun _ => decode_ne (i := .op6XKK 1 5) rfl nofun, fun _ => decode_ne (i := .op6XKK 1 5) rfl nofun⟩
theorem witness_OnlyCallWritesStack :
    (∃ t, step ((atPc 0x200 0x00EE).setSp 16) = .next t) ∧
    (∀ nnn, decodeWord ((atPc 0x200 0x00EE).setSp 16).fetch ≠ .ok (.op2NNN nnn)) ∧
    decodeWord atLoad.fetch ≠ .ok .op00EE :=
  ⟨⟨_, rfl⟩, fun _ => decode_ne (i := .op00EE) rfl nofun, decode_ne (i := .op6XKK 1 5) rfl nofun⟩
theorem witness_StepNeverWritesKeypad : ∃ t, step ((atPc 0x200 0xF20A).setKey (keys [15])) = .next t := ⟨_, rfl⟩
theorem witness_RedrawSetExactlyByDrawing :
    (∃ t, step (atPc 0x200 0x00E0) = .next t ∧ decodeWord (atPc 0x200 0x00E0).fetch = .ok .op00E0) ∧
    (∃ t, step atSprite = .next t ∧ decodeWord atSprite.fetch = .ok (.opDXYN 0 1 1)) ∧
    ∃ t, step atLoad = .next t ∧
      ¬ (decodeWord atLoad.fetch = .ok .op00E0 ∨ ∃ x y n, decodeWord atLoad.fetch = .ok (.opDXYN x y n)) :=
  have d {j : Instr} (h : Instr.op6XKK 1 5 ≠ j) : decodeWord atLoad.fetch ≠ .ok j := decode_ne rfl h
  ⟨⟨_, rfl, rfl⟩, ⟨_, rfl, rfl⟩, _, rfl, fun h => h.elim (d nofun) fun ⟨_, _, _, h⟩ => absurd h (d nofun)⟩
theorem witness_OnlyDrawingWritesDisplay : ∃ t, step atLoad = .next t ∧ decodeWord atLoad.fetch ≠ .ok .op00E0 ∧
    ∀ x y n, decodeWord atLoad.fetch ≠ .ok (.opDXYN x y n) :=
  ⟨_, rfl, decode_ne (i := .op6XKK 1 5) rfl nofun, fun _ _ _ => decode_ne (i := .op6XKK 1 5) rfl nofun⟩
theorem witness_OnlyStoresWriteMemory : ∃ t, step atSprite = .next t ∧
    (∀ x, decodeWord atSprite.fetch ≠ .ok (.opFX33 x)) ∧ ∀ x, decodeWord atSprite.fetch ≠ .ok (.opFX55 x) :=
  ⟨_, rfl, fun _ => decode_ne (i := .opDXYN 0 1 1) rfl nofun, fun _ => decode_ne (i := .opDXYN 0 1 1) rfl nofun⟩
theorem witness_OnlyIndexInstructionsWriteIndex : ∃ t, step atSprite = .next t ∧
    (∀ nnn, decodeWord atSprite.fetch ≠ .ok (.opANNN nnn)) ∧
    ∀ x, decodeWord atSprite.fetch ≠ .ok (.opFX1E x) ∧ decodeWord atSprite.fetch ≠ .ok (.opFX29 x) ∧
      decodeWord atSprite.fetch ≠ .ok (.opFX55 x) ∧ decodeWord atSprite.fetch ≠ .ok (.opFX65 x) :=
  have d {j : Instr} (h : Instr.opDXYN 0 1 1 ≠ j) : decodeWord atSprite.fetch ≠ .ok j := decode_ne rfl h
  ⟨_, rfl, fun _ => d nofun, fun _ => ⟨d nofun, d nofun, d nofun, d nofun⟩⟩
theorem witness_FlagWrittenOnlyByItsInstructions : ∃ t, step atLoad = .next t ∧
    (∀ x y : Idx, ∀ n : Fin 16, ∀ i ∈ [Instr.op8XY4 x y, .op8XY5 x y, .op8XY6 x y, .op8XY7 x y, .op8XYE x y,
      .opDXYN x y n, .opFX1E x], decodeWord atLoad.fetch ≠ .ok i) ∧
    ∀ (y : Idx) (kk : Byte), ∀ i ∈ [Instr.op6XKK 15 kk, .op7XKK 15 kk, .op8XY0 15 y, .op8XY1 15 y, .op8XY2 15 y,
      .op8XY3 15 y, .opCXKK 15 kk, .opFX07 15, .opFX0A 15, .opFX65 15], decodeWord atLoad.fetch ≠ .ok i := by
  refine ⟨_, rfl, fun x y n i hi => decode_ne (i := .op6XKK 1 5) rfl ?_, fun y kk i hi => decode_ne (i := .op6XKK 1 5) rfl ?_⟩
  · rintro rfl; simp at hi
  · rintro rfl; simp at hi
theorem witness_RandomTakesOneDraw :
    (∃ t, step (atPc 0x200 0xCF00) = .next t ∧ decodeWord (atPc 0x200 0xCF00).fetch = .ok (.opCXKK 15 0)) ∧
    ∃ t, step atLoad = .next t ∧ ∀ x kk, decodeWord atLoad.fetch ≠ .ok (.opCXKK x kk) :=
  ⟨⟨_, rfl, rfl⟩, _, rfl, fun _ _ => decode_ne (i := .op6XKK 1 5) rfl nofun⟩
theorem witness_OutcomeNamesItsCause :
    (∃ t, step (atPc 0x200 0x0000) = .next t ∧ decodeWord (atPc 0x200 0x0000).fetch = .error .class0) ∧
    (∃ t, step ((atPc 0x200 0x2ABC).setSp 16) = .next t ∧ t.outcome = .stackOverflow 0x200) ∧
    (∃ t, step (atPc 0x200 0x00EE) = .next t ∧ t.outcome = .stackUnderflow 0x200) ∧
    ∃ t, step ((atPc 0x200 0x2ABC).setSp 15) = .next t ∧ t.outcome = .ok :=
  ⟨⟨_, rfl, rfl⟩, ⟨_, rfl, rfl⟩, ⟨_, rfl, rfl⟩, _, rfl, rfl⟩
theorem witness_StackFaultRepeatsForEver :
    (∃ t, step ((atPc 0x200 0x2ABC).setSp 16) = .next t ∧ ¬ t.Safe) ∧ ∃ t, step (atPc 0x200 0x00EE) = .next t ∧ ¬ t.Safe :=
  ⟨⟨_, rfl, nofun⟩, _, rfl, nofun⟩
theorem witness_SelfJumpEndsRun : (atPc 0xFFF 0x1FFF).AtEnd ∧ (atPc 0 0x1000).AtEnd :=
  ⟨⟨by decide, rfl, rfl⟩, by decide, rfl, rfl⟩
theorem witness_StoredWordIsFetched : (1 : Nat) % 4096 ≠ 4095 % 4096 ∧ 1 % 4096 ≠ (4095 + 1) % 4096 := by decide
theorem witness_StepKeepsInvariant : atSprite.Inv ∧ ∃ t, step atSprite = .next t := ⟨by decide, _, rfl⟩
theorem witness_HostMovesKeepInvariant : atSprite.Inv ∧
    (∃ t, hostMove .step atSprite = .next (t, .step .ok)) ∧
    (∃ t, hostMove (.loadProgram [0xFF]) atSprite = .next (t, .load .ok)) ∧
    ∃ t, hostMove (.setKeys (keys [0, 15])) atSprite = .next (t, .none) := ⟨by decide, ⟨_, rfl⟩, ⟨_, rfl⟩, _, rfl⟩
theorem witness_ReachablePixelsAreZeroOrOne :
    ∃ s, Reachable s ∧ s.readByte 0x201 = 0xE0 :=
  ⟨_, .move (m := .loadProgram [0x00, 0xE0]) .reset rfl, rfl⟩
theorem witness_ResetMemoryIsFontThenZero : 79 < 80 ∧ 80 ≤ 80 ∧ 80 < 4096 ∧ 80 ≤ 4095 ∧ 4095 < 4096 := by decide
theorem witness_LoadProgramPlacesImage :
    (List.replicate 3584 (0xFF : Byte)).length ≤ 3584 ∧ 3584 < (List.replicate 3585 (0xFF : Byte)).length ∧
    ([] : List Byte).length ≤ 3584 := by
  rw [List.length_replicate, List.length_replicate]; decide
theorem witness_ReturnPopsSavedAddress :
    ((atPc 0x200 0x00EE).setSp 1).sp.val = (0 : Fin 16).val + 1 ∧ ((atPc 0x200 0x00EE).setSp 16).sp.val = (15 : Fin 16).val + 1 :=
  ⟨rfl, rfl⟩
theorem witness_CallPushesItsOwnAddress :
    (atPc 0x200 0x2ABC).sp.val = (0 : Fin 16).val ∧ ((atPc 0x200 0x2ABC).setSp 15).sp.val = (15 : Fin 16).val := ⟨rfl, rfl⟩
theorem witness_StackConditionsChangeNothing :
    ((atPc 0x200 0x2ABC).setSp 16).sp.val = 16 ∧ (atPc 0x200 0x00EE).sp.val = 0 := ⟨rfl, rfl⟩
/-- The clause of equal registers, and the clause of a mask of 0. -/
theorem witness_operand_clauses : decodeWord 0x5FF0 = .ok (.op5XY0 15 15) ∧ decodeWord 0xCF00 = .ok (.opCXKK 15 0) := ⟨rfl, rfl⟩
/-- The clauses of AddSetsCarry, SubtractSetsNoBorrow and ShiftsMoveOneBitToFlag: X is VF, and X is not. -/
theorem witness_flag_clauses : (∃ x : Idx, x ≠ 15) ∧ ∃ x : Idx, x = 15 := ⟨⟨14, by decide⟩, 15, rfl⟩
theorem witness_GlyphAddressIsFiveTimesDigit :
    (((atPc 0x200 0xF029).setReg 0 15).reg 0).toNat < 16 ∧ ¬ (((atPc 0x200 0xF029).setReg 0 16).reg 0).toNat < 16 := by decide
theorem witness_StoreDecimalDigits : ∀ j < 3, 2 % 4096 ≠ ((atPc 0x200 0xF033).setI 0xFFF).elemAddr j % 4096 := by decide
theorem witness_StoreRegistersFromIndex :
    ∀ j : Idx, j ≤ 15 → 0xFEF % 4096 ≠ ((atPc 0x200 0xFF55).setI 0xFFF0).elemAddr j.val % 4096 := by decide
/-- The touched cell 2047 is on, the touched cell 1984 is off, the cell 0 is not touched. -/
theorem witness_DrawTogglesExactlyTouchedPixels :
    (atSprite.readByte (atSprite.i.toNat + 0)).getLsbD (7 - 0) = true ∧ 63 = ((atSprite.reg 0).toNat + 0) % 64 ∧
    31 = ((atSprite.reg 1).toNat + 0) % 32 ∧ atSprite.cell (31 * 64 + 63) ≠ 0 ∧
    (atSprite.readByte (atSprite.i.toNat + 0)).getLsbD (7 - 1) = true ∧ 0 = ((atSprite.reg 0).toNat + 1) % 64 ∧
    atSprite.cell (31 * 64 + 0) = 0 ∧ 0 ≠ ((atSprite.reg 1).toNat + 0) % 32 := by decide
/-- A clear display and a sprite with a bit of 1, drawn twice. -/
theorem witness_DrawTwiceErases : ∃ t u, exec (.opDXYN 0 1 1) ((base.setI 0x300).writeByte 0x300 0x80) = .next t ∧
    exec (.opDXYN 0 1 1) t = .next u ∧ (∀ k, ((base.setI 0x300).writeByte 0x300 0x80).cell k = 0) ∧
    ((((base.setI 0x300).writeByte 0x300 0x80)).readByte (0x300 + 0)).getLsbD (7 - 0) = true :=
  ⟨_, _, rfl, rfl, fun _ => rfl, by decide⟩
theorem witness_KeySkipsReadLatch : (15 : Idx).val = ((base.setReg 3 0xFF).reg 3).toNat % 16 ∧
    (0 : Idx).val = ((base.setReg 3 0x10).reg 3).toNat % 16 := by decide
theorem witness_KeyWaitTakesHighestKey :
    ((base.setKey (keys [3, 15])).key[(15 : Idx)] = true ∧ ∀ j : Idx, 15 < j → (base.setKey (keys [3, 15])).key[j] = false) ∧
    ((base.setKey (keys [0])).key[(0 : Idx)] = true ∧ ∀ j : Idx, 0 < j → (base.setKey (keys [0])).key[j] = false) ∧
    ∀ j : Idx, base.key[j] = false := by decide
theorem witness_DelayTimerIsReadBeforeTick : decodeWord (atPc 0x200 0xF107).fetch = .ok (.opFX07 1) := rfl
theorem witness_TimerWritesLoseOneInTheSameStep : decodeWord (atPc 0x200 0xF015).fetch = .ok (.opFX15 0) ∧
    decodeWord (atPc 0x200 0xF318).fetch = .ok (.opFX18 3) := ⟨rfl, rfl⟩

end Sys2Proof.Tests
end

section
/-! SUPPORT. What memory reads as right after reset (10_state.md R12), for any font table and count of draws. -/

namespace Sys2Proof.Machine

theorem Memory.unlisted_of_lt (font : Vector Byte 80) {a : Nat} (h : a < 80) : Memory.unlisted font a = font[a] :=
  dif_pos h

theorem Memory.unlisted_of_ge (font : Vector Byte 80) {a : Nat} (h : 80 ≤ a) : Memory.unlisted font a = 0 :=
  dif_neg (Nat.not_lt.mpr h)

/-- Reset lists no byte, so every address reads as an unlisted one, reduced modulo 4096 (20_memory.md R41). -/
@[simp] theorem State.readByte_resetWith (font : Vector Byte 80) (n a : Nat) :
    (State.resetWith font n).readByte a = Memory.unlisted font (a % 4096) := rfl

theorem State.readByte_resetWith_font (font : Vector Byte 80) (n : Nat) {a : Nat} (h : a < 80) :
    (State.resetWith font n).readByte a = font[a] := by
  rw [State.readByte_resetWith, Nat.mod_eq_of_lt (h.trans (by decide)), Memory.unlisted_of_lt font h]

theorem State.readByte_resetWith_zero (font : Vector Byte 80) (n : Nat) {a : Nat} (h : 80 ≤ a) (ha : a < 4096) :
    (State.resetWith font n).readByte a = 0 := by
  rw [State.readByte_resetWith, Nat.mod_eq_of_lt ha, Memory.unlisted_of_ge font h]

/-- Settles O27: `State.reset` and the reset operation are both `State.resetWith`, one with the free font table and one
with the state's own. -/
theorem resetMemoryIsFontThenZero : Obligations.ResetMemoryIsFontThenZero :=
  ⟨fun _ h => State.readByte_resetWith_font Config.font 0 h,
    fun _ h ha => State.readByte_resetWith_zero Config.font 0 h ha,
    fun s => ⟨fun _ h => State.readByte_resetWith_font s.font s.draws h,
      fun _ h ha => State.readByte_resetWith_zero s.font s.draws h ha⟩⟩

end Sys2Proof.Machine
end

section
/-! SUPPORT. The two outcomes of `loadProgram` (70_reset_and_hazards.md R233), and what storing a list of bytes leaves
unchanged. -/

namespace Sys2Proof.Machine

open Sys2Proof.Claims

theorem State.loadProgram_of_le (s : State) {bytes : List Byte} (h : bytes.length ≤ 3584) :
    s.loadProgram bytes = (.ok, s.resetOp.storeBytes 0x200 bytes) :=
  if_neg (Nat.not_lt.mpr h)

theorem State.loadProgram_of_gt (s : State) {bytes : List Byte} (h : 3584 < bytes.length) :
    s.loadProgram bytes = (.programTooLarge bytes.length, s.resetOp) :=
  if_pos h

/-- A list that ends within memory is stored without a wrap, so an address on either side of it keeps its byte. -/
theorem State.readByte_storeBytes_outside (s : State) {a q : Nat} {bs : List Byte} (hend : a + bs.length ≤ 4096)
    (hq : q < 4096) (hout : q < a ∨ a + bs.length ≤ q) : (s.storeBytes a bs).readByte q = s.readByte q := by
  refine s.readByte_storeBytes_other a bs q fun j hj => ?_
  rw [Nat.mod_eq_of_lt hq, Nat.mod_eq_of_lt (by omega)]
  omega

theorem State.storeBytes_sameRegs (s : State) (a : Nat) (bs : List Byte) : SameRegs s (s.storeBytes a bs) :=
  fun r _ => s.storeBytes_reg a bs r

theorem State.storeBytes_sameBut_memory (s : State) (a : Nat) (bs : List Byte) :
    SameBut [.memory] s (s.storeBytes a bs) := by
  refine ⟨fun p hp => ?_, s.storeBytes_key a bs, s.storeBytes_font a bs⟩
  cases p with
  | memory => exact absurd List.mem_cons_self hp
  | index => exact s.storeBytes_i a bs
  | stack => exact ⟨s.storeBytes_stack a bs, s.storeBytes_sp a bs⟩
  | delay => exact s.storeBytes_dt a bs
  | sound => exact s.storeBytes_st a bs
  | display => exact s.storeBytes_cell a bs
  | redraw => exact s.storeBytes_redrawPending a bs
  | draws => exact s.storeBytes_draws a bs

/-- Settles O29: an image of at most 3584 bytes ends within memory, so it is stored over the reset state without a wrap,
and the addresses on either side of it read as reset leaves them (10_state.md R12). -/
theorem loadProgramPlacesImage : Obligations.LoadProgramPlacesImage := by
  refine ⟨fun s bytes hlen => ?_, fun s bytes hlen => by simp [s.loadProgram_of_gt hlen]⟩
  have hend : 0x200 + bytes.length ≤ 4096 := by omega
  rw [s.loadProgram_of_le hlen]
  refine ⟨rfl, fun j hj => ?image, fun a ha => ?font, fun a hlo hhi hout => ?zero,
    s.resetOp.storeBytes_sameRegs 0x200 bytes, s.resetOp.storeBytes_sameBut_memory 0x200 bytes,
    s.resetOp.storeBytes_pc 0x200 bytes⟩
  case image => exact s.resetOp.readByte_storeBytes_same 0x200 bytes (by omega) j hj
  case font =>
    exact (s.resetOp.readByte_storeBytes_outside hend (by omega) (.inl (by omega))).trans
      (State.readByte_resetWith_font s.font s.draws ha)
  case zero =>
    exact (s.resetOp.readByte_storeBytes_outside hend hhi hout).trans
      (State.readByte_resetWith_zero s.font s.draws hlo hhi)

end Sys2Proof.Machine
end

section
/-! SUPPORT. Encoder and decoder are inverse to each other, and agree with the masks and matches of the opcode map
(30_encoding.md R61 to R65). -/

namespace Sys2Proof.Laws

/-! Each field of a word that a format put together. -/

theorem fieldClass_formatA (c : BitVec 4) (nnn : BitVec 12) : fieldClass (formatA c nnn) = c.toFin :=
  (fields_formatA c nnn).left
theorem fieldNNN_formatA (c : BitVec 4) (nnn : BitVec 12) : fieldNNN (formatA c nnn) = nnn :=
  (fields_formatA c nnn).right

section
variable (c : BitVec 4) (x : Idx) (kk : Byte)

theorem fieldClass_formatXK : fieldClass (formatXK c x kk) = c.toFin :=
  (fields_formatXK c x kk).left
theorem fieldX_formatXK : fieldX (formatXK c x kk) = x :=
  (fields_formatXK c x kk).right.left
theorem fieldKK_formatXK : fieldKK (formatXK c x kk) = kk :=
  (fields_formatXK c x kk).right.right

end

section
variable (c : BitVec 4) (x y : Idx) (n : BitVec 4)

theorem fieldClass_formatXY : fieldClass (formatXY c x y n) = c.toFin :=
  (fields_formatXY c x y n).left
theorem fieldX_formatXY : fieldX (formatXY c x y n) = x :=
  (fields_formatXY c x y n).right.left
theorem fieldY_formatXY : fieldY (formatXY c x y n) = y :=
  (fields_formatXY c x y n).right.right.left
theorem fieldN_formatXY : fieldN (formatXY c x y n) = n.toFin :=
  (fields_formatXY c x y n).right.right.right

end

/-! Decoding an encoding. In the classes of one instruction the fields of the word are the operands; in the others the
sub-opcode that the encoder wrote also selects the branch. -/

theorem decodeWord_encode (i : Instr) : decodeWord (encode i) = .ok i := by
  cases i with
  | op00E0 | op00EE => rfl
  | op1NNN nnn => rw [encode, decodeWord_class1 _ (fieldClass_formatA 0x1 ..), fieldNNN_formatA]
  | op2NNN nnn => rw [encode, decodeWord_class2 _ (fieldClass_formatA 0x2 ..), fieldNNN_formatA]
  | opANNN nnn => rw [encode, decodeWord_classA _ (fieldClass_formatA 0xA ..), fieldNNN_formatA]
  | opBNNN nnn => rw [encode, decodeWord_classB _ (fieldClass_formatA 0xB ..), fieldNNN_formatA]
  | op3XKK x kk => rw [encode, decodeWord_class3 _ (fieldClass_formatXK 0x3 ..), fieldX_formatXK, fieldKK_formatXK]
  | op4XKK x kk => rw [encode, decodeWord_class4 _ (fieldClass_formatXK 0x4 ..), fieldX_formatXK, fieldKK_formatXK]
  | op6XKK x kk => rw [encode, decodeWord_class6 _ (fieldClass_formatXK 0x6 ..), fieldX_formatXK, fieldKK_formatXK]
  | op7XKK x kk => rw [encode, decodeWord_class7 _ (fieldClass_formatXK 0x7 ..), fieldX_formatXK, fieldKK_formatXK]
  | opCXKK x kk => rw [encode, decodeWord_classC _ (fieldClass_formatXK 0xC ..), fieldX_formatXK, fieldKK_formatXK]
  | opDXYN x y n =>
    rw [encode, decodeWord_classD _ (fieldClass_formatXY 0xD ..), fieldX_formatXY, fieldY_formatXY,
      fieldN_formatXY]; rfl
  | op5XY0 x y =>
    rw [encode, decodeWord_class5 _ (fieldClass_formatXY 0x5 ..), decodeClass5, fieldX_formatXY, fieldY_formatXY,
      fieldN_formatXY]; rfl
  | op9XY0 x y =>
    rw [encode, decodeWord_class9 _ (fieldClass_formatXY 0x9 ..), decodeClass9, fieldX_formatXY, fieldY_formatXY,
      fieldN_formatXY]; rfl
  | op8XY0 x y | op8XY1 x y | op8XY2 x y | op8XY3 x y | op8XY4 x y | op8XY5 x y | op8XY6 x y | op8XY7 x y
  | op8XYE x y =>
    rw [encode, decodeWord_class8 _ (fieldClass_formatXY 0x8 ..), decodeClass8, fieldX_formatXY, fieldY_formatXY,
      fieldN_formatXY]; rfl
  | opEX9E x | opEXA1 x =>
    rw [encode, decodeWord_classE _ (fieldClass_formatXK 0xE ..), decodeClassE, fieldX_formatXK, fieldKK_formatXK]; rfl
  | opFX07 x | opFX0A x | opFX15 x | opFX18 x | opFX1E x | opFX29 x | opFX33 x | opFX55 x | opFX65 x =>
    rw [encode, decodeWord_classF _ (fieldClass_formatXK 0xF ..), decodeClassF, fieldX_formatXK, fieldKK_formatXK]; rfl

/-- The byte decoder reads the two bytes of a word as the word decoder reads the word. -/
theorem decodeBytes_bytes {w : Word} {i : Instr} (h : decodeWord w = .ok i) :
    decodeBytes [highByte w, lowByte w] = .ok (i, []) := by
  rw [decodeBytes, wordOfBytes_bytes, h]

/-- Settles O2: each format keeps every field it is given, so the decoder reads the class, the sub-opcode and the
operands that the encoder wrote. -/
theorem decodeOfEncodeIsInstruction : Obligations.DecodeOfEncodeIsInstruction :=
  fun i => ⟨decodeWord_encode i, decodeBytes_bytes (decodeWord_encode i)⟩

/-! Encoding what a word decodes to: first the classes of more than one instruction, then all. -/

section
variable {w : Word} {i : Instr}

theorem encode_of_decodeClass0 (h : decodeClass0 w = .ok i) : encode i = w := by
  unfold decodeClass0 at h
  split_ifs at h with hw hw <;> cases h <;> exact hw.symm

theorem encode_of_decodeClass5 (hc : fieldClass w = 0x5) (h : decodeClass5 w = .ok i) : encode i = w := by
  unfold decodeClass5 at h
  split_ifs at h with hn
  cases h
  exact formatXY_fields (congrArg Fin.val hc) (congrArg Fin.val hn)

theorem encode_of_decodeClass8 (hc : fieldClass w = 0x8) (h : decodeClass8 w = .ok i) : encode i = w := by
  unfold decodeClass8 at h
  split_ifs at h with hn hn hn hn hn hn hn hn hn <;> cases h <;>
    exact formatXY_fields (congrArg Fin.val hc) (congrArg Fin.val hn)

theorem encode_of_decodeClass9 (hc : fieldClass w = 0x9) (h : decodeClass9 w = .ok i) : encode i = w := by
  unfold decodeClass9 at h
  split_ifs at h with hn
  cases h
  exact formatXY_fields (congrArg Fin.val hc) (congrArg Fin.val hn)

theorem encode_of_decodeClassE (hc : fieldClass w = 0xE) (h : decodeClassE w = .ok i) : encode i = w := by
  unfold decodeClassE at h
  split_ifs at h with hk hk <;> cases h <;> exact formatXK_fields (congrArg Fin.val hc) hk

theorem encode_of_decodeClassF (hc : fieldClass w = 0xF) (h : decodeClassF w = .ok i) : encode i = w := by
  unfold decodeClassF at h
  split_ifs at h with hk hk hk hk hk hk hk hk hk <;> cases h <;> exact formatXK_fields (congrArg Fin.val hc) hk

theorem encode_of_decodeWord (h : decodeWord w = .ok i) : encode i = w := by
  match hc : fieldClass w with
  | 0x0 => exact encode_of_decodeClass0 (decodeWord_class0 w hc ▸ h)
  | 0x1 => cases (decodeWord_class1 w hc).symm.trans h; exact formatA_fields (congrArg Fin.val hc)
  | 0x2 => cases (decodeWord_class2 w hc).symm.trans h; exact formatA_fields (congrArg Fin.val hc)
  | 0x3 => cases (decodeWord_class3 w hc).symm.trans h; exact formatXK_fields (congrArg Fin.val hc) rfl
  | 0x4 => cases (decodeWord_class4 w hc).symm.trans h; exact formatXK_fields (congrArg Fin.val hc) rfl
  | 0x5 => exact encode_of_decodeClass5 hc (decodeWord_class5 w hc ▸ h)
  | 0x6 => cases (decodeWord_class6 w hc).symm.trans h; exact formatXK_fields (congrArg Fin.val hc) rfl
  | 0x7 => cases (decodeWord_class7 w hc).symm.trans h; exact formatXK_fields (congrArg Fin.val hc) rfl
  | 0x8 => exact encode_of_decodeClass8 hc (decodeWord_class8 w hc ▸ h)
  | 0x9 => exact encode_of_decodeClass9 hc (decodeWord_class9 w hc ▸ h)
  | 0xA => cases (decodeWord_classA w hc).symm.trans h; exact formatA_fields (congrArg Fin.val hc)
  | 0xB => cases (decodeWord_classB w hc).symm.trans h; exact formatA_fields (congrArg Fin.val hc)
  | 0xC => cases (decodeWord_classC w hc).symm.trans h; exact formatXK_fields (congrArg Fin.val hc) rfl
  | 0xD => cases (decodeWord_classD w hc).symm.trans h; exact formatXY_fields (congrArg Fin.val hc) rfl
  | 0xE => exact encode_of_decodeClassE hc (decodeWord_classE w hc ▸ h)
  | 0xF => exact encode_of_decodeClassF hc (decodeWord_classF w hc ▸ h)
  | ⟨n + 16, hn⟩ => omega

end

/-- Settles O3: the fields that the decoder reads and the class and sub-opcode that it tests are together the whole
word. -/
theorem encodeOfDecodeIsWord : Obligations.EncodeOfDecodeIsWord :=
  fun _ _ h => encode_of_decodeWord h

/-! What a mask and a match say of a word that selects by them (30_encoding.md R63, R64). -/

section
variable {w : Word} {r : OpRow} {i : Instr}

section
variable {m v : Word} (h : w &&& m = v)
include h

/-- Where the mask is all ones, the word has the bits of the match. -/
theorem extractLsb'_of_and_eq {a n : Nat} (hm : m.extractLsb' a n = BitVec.allOnes n) :
    w.extractLsb' a n = v.extractLsb' a n := by
  rw [← h, BitVec.extractLsb'_and, hm, BitVec.and_allOnes]

theorem fieldClass_of_and_eq (hm : m.extractLsb' 12 4 = BitVec.allOnes 4) : (fieldClass w).val = (fieldClass v).val :=
  congrArg BitVec.toNat (extractLsb'_of_and_eq h hm)

theorem fieldN_of_and_eq (hm : m.extractLsb' 0 4 = BitVec.allOnes 4) : (fieldN w).val = (fieldN v).val :=
  congrArg BitVec.toNat (extractLsb'_of_and_eq h hm)

theorem fieldKK_of_and_eq (hm : m.extractLsb' 0 8 = BitVec.allOnes 8) : fieldKK w = fieldKK v :=
  extractLsb'_of_and_eq h hm

end

/-- The mask of every row covers the class. -/
theorem row_mask_class (i : Instr) : i.row.mask.extractLsb' 12 4 = BitVec.allOnes 4 := by
  cases i <;> rw [Instr.row] <;> rfl

/-- A word that selects the row of an instruction is the encoding of an instruction of that row: the one whose operands
are the fields of the word. -/
theorem exists_encode_of_selects (h : i.row.selects w) : ∃ j : Instr, j.row = i.row ∧ encode j = w := by
  have hc := fieldClass_of_and_eq h (row_mask_class i)
  cases i with dsimp only [OpRow.selects, Instr.row] at h hc
  | op00E0 => exact ⟨.op00E0, rfl, h.symm.trans BitVec.and_allOnes⟩
  | op00EE => exact ⟨.op00EE, rfl, h.symm.trans BitVec.and_allOnes⟩
  | op1NNN => exact ⟨.op1NNN (fieldNNN w), rfl, formatA_fields hc⟩
  | op2NNN => exact ⟨.op2NNN (fieldNNN w), rfl, formatA_fields hc⟩
  | op3XKK => exact ⟨.op3XKK (fieldX w) (fieldKK w), rfl, formatXK_fields hc rfl⟩
  | op4XKK => exact ⟨.op4XKK (fieldX w) (fieldKK w), rfl, formatXK_fields hc rfl⟩
  | op5XY0 => exact ⟨.op5XY0 (fieldX w) (fieldY w), rfl, formatXY_fields hc (fieldN_of_and_eq h rfl)⟩
  | op6XKK => exact ⟨.op6XKK (fieldX w) (fieldKK w), rfl, formatXK_fields hc rfl⟩
  | op7XKK => exact ⟨.op7XKK (fieldX w) (fieldKK w), rfl, formatXK_fields hc rfl⟩
  | op8XY0 => exact ⟨.op8XY0 (fieldX w) (fieldY w), rfl, formatXY_fields hc (fieldN_of_and_eq h rfl)⟩
  | op8XY1 => exact ⟨.op8XY1 (fieldX w) (fieldY w), rfl, formatXY_fields hc (fieldN_of_and_eq h rfl)⟩
  | op8XY2 => exact ⟨.op8XY2 (fieldX w) (fieldY w), rfl, formatXY_fields hc (fieldN_of_and_eq h rfl)⟩
  | op8XY3 => exact ⟨.op8XY3 (fieldX w) (fieldY w), rfl, formatXY_fields hc (fieldN_of_and_eq h rfl)⟩
  | op8XY4 => exact ⟨.op8XY4 (fieldX w) (fieldY w), rfl, formatXY_fields hc (fieldN_of_and_eq h rfl)⟩
  | op8XY5 => exact ⟨.op8XY5 (fieldX w) (fieldY w), rfl, formatXY_fields hc (fieldN_of_and_eq h rfl)⟩
  | op8XY6 => exact ⟨.op8XY6 (fieldX w) (fieldY w), rfl, formatXY_fields hc (fieldN_of_and_eq h rfl)⟩
  | op8XY7 => exact ⟨.op8XY7 (fieldX w) (fieldY w), rfl, formatXY_fields hc (fieldN_of_and_eq h rfl)⟩
  | op8XYE => exact ⟨.op8XYE (fieldX w) (fieldY w), rfl, formatXY_fields hc (fieldN_of_and_eq h rfl)⟩
  | op9XY0 => exact ⟨.op9XY0 (fieldX w) (fieldY w), rfl, formatXY_fields hc (fieldN_of_and_eq h rfl)⟩
  | opANNN => exact ⟨.opANNN (fieldNNN w), rfl, formatA_fields hc⟩
  | opBNNN => exact ⟨.opBNNN (fieldNNN w), rfl, formatA_fields hc⟩
  | opCXKK => exact ⟨.opCXKK (fieldX w) (fieldKK w), rfl, formatXK_fields hc rfl⟩
  | opDXYN => exact ⟨.opDXYN (fieldX w) (fieldY w) (fieldN w), rfl, formatXY_fields hc rfl⟩
  | opEX9E => exact ⟨.opEX9E (fieldX w), rfl, formatXK_fields hc (fieldKK_of_and_eq h rfl)⟩
  | opEXA1 => exact ⟨.opEXA1 (fieldX w), rfl, formatXK_fields hc (fieldKK_of_and_eq h rfl)⟩
  | opFX07 => exact ⟨.opFX07 (fieldX w), rfl, formatXK_fields hc (fieldKK_of_and_eq h rfl)⟩
  | opFX0A => exact ⟨.opFX0A (fieldX w), rfl, formatXK_fields hc (fieldKK_of_and_eq h rfl)⟩
  | opFX15 => exact ⟨.opFX15 (fieldX w), rfl, formatXK_fields hc (fieldKK_of_and_eq h rfl)⟩
  | opFX18 => exact ⟨.opFX18 (fieldX w), rfl, formatXK_fields hc (fieldKK_of_and_eq h rfl)⟩
  | opFX1E => exact ⟨.opFX1E (fieldX w), rfl, formatXK_fields hc (fieldKK_of_and_eq h rfl)⟩
  | opFX29 => exact ⟨.opFX29 (fieldX w), rfl, formatXK_fields hc (fieldKK_of_and_eq h rfl)⟩
  | opFX33 => exact ⟨.opFX33 (fieldX w), rfl, formatXK_fields hc (fieldKK_of_and_eq h rfl)⟩
  | opFX55 => exact ⟨.opFX55 (fieldX w), rfl, formatXK_fields hc (fieldKK_of_and_eq h rfl)⟩
  | opFX65 => exact ⟨.opFX65 (fieldX w), rfl, formatXK_fields hc (fieldKK_of_and_eq h rfl)⟩

/-- A word that selects a row of the opcode map decodes to an instruction of that row. -/
theorem exists_decodeWord_of_selects (hr : r ∈ opcodeMap) (h : r.selects w) :
    ∃ j, decodeWord w = .ok j ∧ j.row = r := by
  obtain ⟨k, -, rfl⟩ := List.mem_map.mp hr
  obtain ⟨j, hrow, rfl⟩ := exists_encode_of_selects h
  exact ⟨j, decodeWord_encode j, hrow⟩

end

/-- The statements of `EncodeRow`, one for each constructor, put together. -/
theorem encodeRow (i : Instr) : EncodeRow.Statement i := by
  cases i with
  | op00E0 => exact EncodeRow.op00E0
  | op00EE => exact EncodeRow.op00EE
  | op1NNN nnn => exact EncodeRow.op1NNN nnn
  | op2NNN nnn => exact EncodeRow.op2NNN nnn
  | op3XKK x kk => exact EncodeRow.op3XKK x kk
  | op4XKK x kk => exact EncodeRow.op4XKK x kk
  | op5XY0 x y => exact EncodeRow.op5XY0 x y
  | op6XKK x kk => exact EncodeRow.op6XKK x kk
  | op7XKK x kk => exact EncodeRow.op7XKK x kk
  | op8XY0 x y => exact EncodeRow.op8XY0 x y
  | op8XY1 x y => exact EncodeRow.op8XY1 x y
  | op8XY2 x y => exact EncodeRow.op8XY2 x y
  | op8XY3 x y => exact EncodeRow.op8XY3 x y
  | op8XY4 x y => exact EncodeRow.op8XY4 x y
  | op8XY5 x y => exact EncodeRow.op8XY5 x y
  | op8XY6 x y => exact EncodeRow.op8XY6 x y
  | op8XY7 x y => exact EncodeRow.op8XY7 x y
  | op8XYE x y => exact EncodeRow.op8XYE x y
  | op9XY0 x y => exact EncodeRow.op9XY0 x y
  | opANNN nnn => exact EncodeRow.opANNN nnn
  | opBNNN nnn => exact EncodeRow.opBNNN nnn
  | opCXKK x kk => exact EncodeRow.opCXKK x kk
  | opDXYN x y n => exact EncodeRow.opDXYN x y n
  | opEX9E x => exact EncodeRow.opEX9E x
  | opEXA1 x => exact EncodeRow.opEXA1 x
  | opFX07 x => exact EncodeRow.opFX07 x
  | opFX0A x => exact EncodeRow.opFX0A x
  | opFX15 x => exact EncodeRow.opFX15 x
  | opFX18 x => exact EncodeRow.opFX18 x
  | opFX1E x => exact EncodeRow.opFX1E x
  | opFX29 x => exact EncodeRow.opFX29 x
  | opFX33 x => exact EncodeRow.opFX33 x
  | opFX55 x => exact EncodeRow.opFX55 x
  | opFX65 x => exact EncodeRow.opFX65 x

/-- Settles O4: a word that decodes to `i` is the encoding of `i`, which selects the row of `i`; and a word that selects
any row decodes to an instruction of that row, so an unrecognised word selects none and no word selects two. -/
theorem decoderAgreesWithOpcodeMap : Obligations.DecoderAgreesWithOpcodeMap := by
  refine ⟨rfl, fun w => ?_⟩
  split
  next i hi =>
    obtain ⟨hmem, hsel⟩ := encodeRow i
    rw [encode_of_decodeWord hi] at hsel
    refine ⟨hmem, hsel, fun r hr h => ?_⟩
    obtain ⟨j, hj, rfl⟩ := exists_decodeWord_of_selects hr h
    rw [Except.ok.inj (hj.symm.trans hi)]
  next e he =>
    intro r hr h
    obtain ⟨j, hj, -⟩ := exists_decodeWord_of_selects hr h
    exact nomatch he.symm.trans hj

end Sys2Proof.Laws
end

section
/-! SUPPORT. Frames follow one another: what two successive changes each leave unchanged, both together do. -/

namespace Sys2Proof.Claims

open Sys2Proof.Machine

section
variable {ps : List Part} {s t u : State}

theorem Part.Same.trans {p : Part} (hst : p.Same s t) (htu : p.Same t u) : p.Same s u := by
  cases p with
  | stack => exact ⟨htu.left.trans hst.left, htu.right.trans hst.right⟩
  | memory => exact fun a => (htu a).trans (hst a)
  | display => exact fun k => (htu k).trans (hst k)
  | index | delay | sound | redraw | draws => exact Eq.trans htu hst

theorem SameBut.trans (hst : SameBut ps s t) (htu : SameBut ps t u) : SameBut ps s u := by
  obtain ⟨hparts, hkey, hfont⟩ := hst
  obtain ⟨hparts', hkey', hfont'⟩ := htu
  exact ⟨fun p hp => (hparts p hp).trans (hparts' p hp), hkey'.trans hkey, hfont'.trans hfont⟩

/-- A frame that lists more parts claims less. -/
theorem SameBut.mono {qs : List Part} (h : SameBut ps s t) (hsub : ps ⊆ qs) : SameBut qs s t := by
  obtain ⟨hparts, hkey, hfont⟩ := h
  exact ⟨fun p hp => hparts p fun hmem => hp (hsub hmem), hkey, hfont⟩

end

end Sys2Proof.Claims
end

section
/-! SUPPORT. The step cycle (40_step_cycle.md): a step from the two bytes at `pc`, the frame of the timer tick, and the
whole step of an unrecognised word. -/

namespace Sys2Proof.Machine

open Sys2Proof.Claims

/-- The byte decoder takes its instruction from the word of the first two bytes (30_encoding.md R60). -/
theorem decodeWord_of_decodeBytes {hi lo : Byte} {bs rest : List Byte} {i : Instr}
    (h : decodeBytes (hi :: lo :: bs) = .ok (i, rest)) : decodeWord (wordOfBytes hi lo) = .ok i := by
  rw [decodeBytes] at h
  split at h
  next j hj => cases h; exact hj
  next => cases h

/-- Settles O5: the word fetched is the word of the two bytes at `pc`, so the step executes what they decode to. -/
theorem stepRunsDecodedInstruction : Obligations.StepRunsDecodedInstruction :=
  fun _ _ _ _ hdecode hexec => step_of_exec (decodeWord_of_decodeBytes hdecode) hexec

theorem State.tick_sameRegs (s : State) : SameRegs s s.tick := fun _ _ => rfl

theorem State.tick_sameBut_timers (s : State) : SameBut [.delay, .sound] s s.tick := by
  refine ⟨fun p hp => ?_, rfl, rfl⟩
  cases p with
  | delay | sound => exact absurd (by decide) hp
  | stack => exact ⟨rfl, rfl⟩
  | memory | display => exact fun _ => rfl
  | index | redraw | draws => exact rfl

/-- Settles O9: each timer is counted down by `countDown`, which is clamped at 0, and nothing else is written. -/
theorem tickCountsTimersDown : Obligations.TickCountsTimersDown :=
  fun s => ⟨countDown_toNat s.dt, countDown_toNat s.st, rfl, rfl, s.tick_sameRegs, s.tick_sameBut_timers⟩

/-- A jump with an outcome: neither `pc` nor the outcome, the model's own field (log 1), is a part that a frame names. -/
theorem State.setPc_setOutcome_sameBut (s : State) (a : Addr) (c : StepOutcome) :
    SameBut [] s ((s.setPc a).setOutcome c) := by
  refine ⟨fun p _ => ?_, rfl, rfl⟩
  cases p with
  | stack => exact ⟨rfl, rfl⟩
  | memory | display => exact fun _ => rfl
  | index | delay | sound | redraw | draws => exact rfl

/-- `pc` moved by a constant, as a number (10_state.md R15). -/
theorem State.setPc_add_pcPlus (s : State) (n : Nat) : PcPlus n s (s.setPc (s.pc + BitVec.ofNat 16 n)) := by
  simp [PcPlus]

/-- Settles O7: an unrecognised word writes `pc` and the outcome and no part that a frame names, and then the tick changes
the two timers only. -/
theorem unrecognisedWordOnlyAdvancesPc : Obligations.UnrecognisedWordOnlyAdvancesPc := by
  intro s e he
  have hword := s.setPc_setOutcome_sameBut (s.pc + 2) (.unknownInstruction s.fetch s.pc)
  obtain ⟨hdt, hst, -, -, hregs, hframe⟩ :=
    tickCountsTimersDown ((s.setPc (s.pc + 2)).setOutcome (.unknownInstruction s.fetch s.pc))
  exact ⟨_, step_of_unknown he, rfl, s.setPc_add_pcPlus 2, hregs, hdt, hst,
    (hword.mono (List.nil_subset _)).trans hframe⟩

end Sys2Proof.Machine
end

section
/-! SUPPORT. Control flow (41_control_flow.md): a skip and a jump change `pc` only, and a call and a return that
complete change the stack beside it. -/

namespace Sys2Proof.Machine

open Sys2Proof.Claims

theorem zext12_toNat (nnn : BitVec 12) : (zext12 nnn).toNat = nnn.toNat :=
  BitVec.toNat_setWidth_of_le (by decide)

/-- Settles O34: the target is the zero-extended operand, and a jump is in no part that a frame names. -/
theorem jumpGoesToAddress : Obligations.JumpGoesToAddress :=
  fun s nnn => ⟨_, rfl, rfl, zext12_toNat nnn, fun _ _ => rfl, s.setPc_setOutcome_sameBut (zext12 nnn) .ok⟩

/-! The skips. -/

section
variable {P : Prop} [Decidable P] {c : Bool}

/-- A skip moves `pc` by 4 where its condition holds, else by 2 (40_step_cycle.md R84). -/
theorem State.skipIf_pcPlus (s : State) (h : c = true ↔ P) : PcPlus (if P then 4 else 2) s (s.skipIf c) := by
  by_cases hP : P
  · rw [if_pos hP, h.mpr hP]
    exact s.setPc_add_pcPlus 4
  · rw [if_neg hP, Bool.eq_false_iff.mpr (mt h.mp hP)]
    exact s.setPc_add_pcPlus 2

/-- An execute phase that is one skip completes, moves `pc` by its condition and changes nothing else. -/
theorem State.skipIf_completes (s : State) (h : c = true ↔ P) :
    ∃ t, complete (s.skipIf c) = .next t ∧ t.outcome = .ok ∧ PcPlus (if P then 4 else 2) s t ∧ SameRegs s t ∧
      SameBut [] s t := by
  have hpc := s.skipIf_pcPlus h
  rw [s.skipIf_eq c] at hpc ⊢
  exact ⟨_, rfl, rfl, hpc, fun _ _ => rfl, s.setPc_setOutcome_sameBut _ .ok⟩

end

theorem beq_iff_toNat_eq (a b : Byte) : (a == b) = true ↔ a.toNat = b.toNat :=
  beq_iff_eq.trans BitVec.toNat_inj.symm

theorem bne_iff_toNat_ne (a b : Byte) : (a != b) = true ↔ a.toNat ≠ b.toNat :=
  bne_iff_ne.trans (not_congr BitVec.toNat_inj.symm)

/-- Settles O36: each is one skip, whose condition compares the register and the byte. -/
theorem byteSkipsCompare : Obligations.ByteSkipsCompare :=
  fun s x kk =>
    ⟨s.skipIf_completes (beq_iff_toNat_eq (s.reg x) kk), s.skipIf_completes (bne_iff_toNat_ne (s.reg x) kk)⟩

/-- Settles O37: each is one skip, whose condition compares the two registers; a register equals itself. -/
theorem registerSkipsCompare : Obligations.RegisterSkipsCompare := by
  intro s x y
  obtain ⟨t, ht, hok, hpc, hregs, hframe⟩ := s.skipIf_completes (beq_iff_toNat_eq (s.reg x) (s.reg y))
  obtain ⟨u, hu, hok', hpc', hregs', hframe'⟩ := s.skipIf_completes (bne_iff_toNat_ne (s.reg x) (s.reg y))
  refine ⟨⟨t, ht, hok, hpc, hregs, hframe, ?same⟩, ⟨u, hu, hok', hpc', hregs', hframe', ?same'⟩⟩
  case same =>
    rintro rfl
    rwa [if_pos rfl] at hpc
  case same' =>
    rintro rfl
    rwa [if_neg (not_not_intro rfl)] at hpc'

/-! The stack (10_state.md R16). -/

/-- The entries and the count of entries in use are the one part `stack` of a frame. -/
theorem State.with_stack_sp_sameBut_stack (s : State) (entries : Vector Addr 16) (n : Fin 17) :
    SameBut [.stack] s { s with stack := entries, sp := n } := by
  refine ⟨fun p hp => ?_, rfl, rfl⟩
  cases p with
  | stack => exact absurd List.mem_cons_self hp
  | memory | display => exact fun _ => rfl
  | index | delay | sound | redraw | draws => exact rfl

/-- A write of the stack followed by a jump with an outcome. -/
theorem State.with_stack_sp_setPc_sameBut_stack (s : State) (entries : Vector Addr 16) (n : Fin 17) (a : Addr)
    (c : StepOutcome) : SameBut [.stack] s (({ s with stack := entries, sp := n }.setPc a).setOutcome c) :=
  (s.with_stack_sp_sameBut_stack entries n).trans ((State.setPc_setOutcome_sameBut _ a c).mono (List.nil_subset _))

section
variable {s : State} {n : Fin 16}

/-- 00EE where an entry is in use: the topmost is entry `n`. -/
theorem exec00EE_of_sp_eq_succ (h : s.sp = n.succ) :
    exec00EE s = complete ((s.setSp n.castSucc).setPc (s.stack[n] + 2)) := by
  have hne : s.sp ≠ 0 := h ▸ Fin.succ_ne_zero n
  have hpred : s.sp.pred hne = n := by simp only [h, Fin.pred_succ]
  simp only [exec00EE, dif_neg hne, hpred]

/-- 2NNN where an entry is free: the next is entry `n`. -/
theorem exec2NNN_of_sp_eq_castSucc (nnn : BitVec 12) (h : s.sp = n.castSucc) :
    exec2NNN nnn s = complete (((s.setStack n s.pc).setSp n.succ).setPc (zext12 nnn)) := by
  have hlt : s.sp.val < 16 := h ▸ n.isLt
  have hcast : s.sp.castLT hlt = n := by simp only [h, Fin.castLT_castSucc]
  rw [exec2NNN, dif_pos hlt, hcast]

end

/-- Settles O31: the entry popped is the topmost one in use, and only the count of entries and `pc` are written. -/
theorem returnPopsSavedAddress : Obligations.ReturnPopsSavedAddress := by
  intro s n hsp
  have hexec : exec .op00EE s = complete ((s.setSp n.castSucc).setPc (s.stack[n] + 2)) :=
    exec00EE_of_sp_eq_succ (Fin.ext hsp)
  exact ⟨_, hexec, rfl, rfl, BitVec.toNat_add .., rfl, fun _ _ => rfl,
    s.with_stack_sp_setPc_sameBut_stack s.stack n.castSucc _ .ok⟩

/-- Settles O32: the entry pushed is the first one free, and the others keep their addresses. -/
theorem callPushesItsOwnAddress : Obligations.CallPushesItsOwnAddress := by
  intro s nnn n hsp
  have hexec : exec (.op2NNN nnn) s = complete (((s.setStack n s.pc).setSp n.succ).setPc (zext12 nnn)) :=
    exec2NNN_of_sp_eq_castSucc nnn (Fin.ext hsp)
  have hother (j : Fin 16) (hj : j ≠ n) : (s.stack.set n s.pc)[j] = s.stack[j] :=
    Vector.getElem_set_ne n.isLt j.isLt (Fin.val_ne_of_ne hj.symm)
  exact ⟨_, hexec, rfl, rfl, zext12_toNat nnn, Vector.getElem_set_self n.isLt, hother, fun _ _ => rfl,
    s.with_stack_sp_setPc_sameBut_stack (s.stack.set n s.pc) n.succ (zext12 nnn) .ok⟩

end Sys2Proof.Machine
end

section
/-! SUPPORT. Register load, arithmetic, logic, shifts and random (42_load_and_arithmetic.md): each rule ends in the write of
one register, some after the write of VF, and its value is then a fact about bytes as numbers. -/

namespace Sys2Proof.Machine

open Sys2Proof.Claims

/-! What the write of a register leaves unchanged, alone and at the end of an execute phase. -/

theorem State.setReg_regsBut (s : State) (x : Idx) (b : Byte) : RegsBut (· = x) s (s.setReg x b) :=
  fun r hr => (s.reg_setReg x r b).trans (if_neg hr)

/-- Registers are in no part that a frame names: `RegsBut` speaks of them. -/
theorem State.setReg_sameBut (s : State) (x : Idx) (b : Byte) : SameBut [] s (s.setReg x b) := by
  refine ⟨fun p _ => ?_, rfl, rfl⟩
  cases p with
  | stack => exact ⟨rfl, rfl⟩
  | memory | display => exact fun _ => rfl
  | index | delay | sound | redraw | draws => exact rfl

/-- An execute phase that writes one register and goes on to the next instruction. -/
theorem State.setReg_completes (s : State) (x : Idx) (b : Byte) :
    ∃ t, complete (s.setReg x b).toNext = .next t ∧ t.reg x = b ∧ WritesOnly x s t :=
  ⟨_, rfl, s.reg_setReg_same x b, rfl, s.setPc_add_pcPlus 2, s.setReg_regsBut x b,
    (s.setReg_sameBut x b).trans (State.setPc_setOutcome_sameBut _ _ .ok)⟩

/-- A register after the write of VF (10_state.md R11). -/
theorem State.reg_setFlag (s : State) (f : Byte) (r : Idx) :
    (s.setFlag f).reg r = if r = 15 then f else s.reg r :=
  s.reg_setReg 15 r f

theorem State.reg_setFlag_of_ne (s : State) (f : Byte) {r : Idx} (h : r ≠ 15) : (s.setFlag f).reg r = s.reg r :=
  (s.reg_setFlag f r).trans (if_neg h)

/-- An execute phase that writes VF as a flag, then one register, and goes on to the next instruction: the flag stands
unless the register is VF (42_load_and_arithmetic.md R119). -/
theorem State.setFlag_setReg_completes (s : State) (f : Byte) (x : Idx) (b : Byte) :
    ∃ t, complete ((s.setFlag f).setReg x b).toNext = .next t ∧ t.reg x = b ∧ (x ≠ 15 → t.reg 15 = f) ∧
      WritesOnlyAndFlag x s t := by
  obtain ⟨t, ht, hx, hok, hpc, hregs, hframe⟩ := (s.setFlag f).setReg_completes x b
  have hflag (h : x ≠ 15) : t.reg 15 = f := (hregs 15 h.symm).trans (s.reg_setReg_same 15 f)
  have hother : RegsBut (fun r => r = x ∨ r = 15) s t := fun r hr =>
    (hregs r fun h => hr (.inl h)).trans (s.reg_setFlag_of_ne f fun h => hr (.inr h))
  exact ⟨t, ht, hx, hflag, hok, hpc, hother, (s.setReg_sameBut 15 f).trans hframe⟩

/-! The flags and the results as numbers. -/

theorem carry_toNat (sum : Nat) : (carry sum).toNat = if sum > 255 then 1 else 0 :=
  apply_ite BitVec.toNat _ _ _

theorem noBorrow_toNat (a b : Byte) : (noBorrow a b).toNat = if b.toNat > a.toNat then 0 else 1 :=
  apply_ite BitVec.toNat _ _ _

theorem bottomBit_toNat (b : Byte) : (bottomBit b).toNat = b.toNat % 2 :=
  (BitVec.toNat_and ..).trans (Nat.and_one_is_mod _)

theorem topBit_toNat (b : Byte) : (topBit b).toNat = b.toNat / 128 :=
  (BitVec.toNat_ushiftRight ..).trans (Nat.shiftRight_eq_div_pow ..)

theorem sub_toNat (a b : Byte) : (a - b).toNat = (a.toNat + 256 - b.toNat) % 256 := by
  have hb : b.toNat < 256 := b.isLt
  rw [BitVec.toNat_sub]
  congr 1
  omega

theorem shiftRight_one_toNat (b : Byte) : (b >>> 1).toNat = b.toNat / 2 :=
  (BitVec.toNat_ushiftRight ..).trans (Nat.shiftRight_eq_div_pow ..)

theorem shiftLeft_one_toNat (b : Byte) : (b <<< 1).toNat = 2 * b.toNat % 256 := by
  rw [BitVec.toNat_shiftLeft, Nat.shiftLeft_eq, Nat.mul_comm]

/-! The instructions without a flag. -/

/-- Settles O38: the register write is the whole rule. -/
theorem loadByteSetsRegister : Obligations.LoadByteSetsRegister :=
  fun s x kk => s.setReg_completes x kk

/-- Settles O39: the sum is reduced to a byte, and the one register write is the destination's. -/
theorem addByteWrapsWithoutFlag : Obligations.AddByteWrapsWithoutFlag := by
  intro s x kk
  obtain ⟨t, ht, hx, hwrites⟩ := s.setReg_completes x (BitVec.ofNat 8 ((s.reg x).toNat + kk.toNat))
  exact ⟨t, ht, by rw [hx, BitVec.toNat_ofNat], hwrites⟩

/-- Settles O40: the three logic operations on bytes are those on each bit. -/
theorem copyAndLogicWriteOnlyDestination : Obligations.CopyAndLogicWriteOnlyDestination := by
  intro s x y
  obtain ⟨t₁, ht₁, hor, hw₁⟩ := s.setReg_completes x (s.reg x ||| s.reg y)
  obtain ⟨t₂, ht₂, hand, hw₂⟩ := s.setReg_completes x (s.reg x &&& s.reg y)
  obtain ⟨t₃, ht₃, hxor, hw₃⟩ := s.setReg_completes x (s.reg x ^^^ s.reg y)
  exact ⟨s.setReg_completes x (s.reg y),
    ⟨t₁, ht₁, hw₁, fun j => by rw [hor, BitVec.getLsbD_or]⟩,
    ⟨t₂, ht₂, hw₂, fun j => by rw [hand, BitVec.getLsbD_and]⟩,
    ⟨t₃, ht₃, hw₃, fun j => by rw [hxor, BitVec.getLsbD_xor]⟩⟩

/-! The instructions that write VF as a flag, then the destination. -/

/-- Settles O41: the sum is formed before the flag is written, so X = 15 and Y = 15 need no case. -/
theorem addSetsCarry : Obligations.AddSetsCarry := by
  intro s x y
  obtain ⟨t, ht, hx, hflag, hwrites⟩ := s.setFlag_setReg_completes
    (carry ((s.reg x).toNat + (s.reg y).toNat)) x (BitVec.ofNat 8 ((s.reg x).toNat + (s.reg y).toNat))
  exact ⟨t, ht, by rw [hx, BitVec.toNat_ofNat], fun h => by rw [hflag h, carry_toNat], hwrites⟩

/-- A subtraction of `V[n]` from `V[m]` into `V[x]`, the operands read after the flag `f` is written: 8XY5 and 8XY7 differ
in the order of their operands only. -/
theorem State.subtract_completes (s : State) (x m n : Idx) {f : Byte} (hf : f = noBorrow (s.reg m) (s.reg n)) :
    ∃ t, complete ((s.setFlag f).setReg x ((s.setFlag f).reg m - (s.setFlag f).reg n)).toNext = .next t ∧
      WritesOnlyAndFlag x s t ∧
      ∃ f, f = (if (s.reg n).toNat > (s.reg m).toNat then 0 else 1) ∧ (x ≠ 15 → (t.reg 15).toNat = f) ∧
        (t.reg x).toNat =
          ((if m = 15 then f else (s.reg m).toNat) + 256 - (if n = 15 then f else (s.reg n).toNat)) % 256 := by
  obtain ⟨t, ht, hx, hflag, hwrites⟩ :=
    s.setFlag_setReg_completes f x ((s.setFlag f).reg m - (s.setFlag f).reg n)
  have hread (r : Idx) : ((s.setFlag f).reg r).toNat = if r = 15 then f.toNat else (s.reg r).toNat := by
    rw [s.reg_setFlag, apply_ite BitVec.toNat]
  exact ⟨t, ht, hwrites, f.toNat, by rw [hf, noBorrow_toNat], fun h => by rw [hflag h],
    by rw [hx, sub_toNat, hread, hread]⟩

/-- Settles O42: 8XY5 subtracts `V[Y]` from `V[X]` and 8XY7 `V[X]` from `V[Y]`, both into `V[X]`. -/
theorem subtractSetsNoBorrow : Obligations.SubtractSetsNoBorrow :=
  fun s x y => ⟨s.subtract_completes x x y rfl, s.subtract_completes x y x rfl⟩

/-- Settles O43: the shift reads `V[X]` after the flag is written, so with X = 15 it shifts the flag. -/
theorem shiftsMoveOneBitToFlag : Obligations.ShiftsMoveOneBitToFlag := by
  intro s x y
  obtain ⟨t, ht, hx, hflag, hwrites⟩ := s.setFlag_setReg_completes (bottomBit (s.reg x)) x
    ((s.setFlag (bottomBit (s.reg x))).reg x >>> 1)
  obtain ⟨u, hu, hx', hflag', hwrites'⟩ := s.setFlag_setReg_completes (topBit (s.reg x)) x
    ((s.setFlag (topBit (s.reg x))).reg x <<< 1)
  refine ⟨⟨t, ht, hwrites, fun h => ⟨?right, ?rightFlag⟩, ?rightVF⟩,
    ⟨u, hu, hwrites', fun h => ⟨?left, ?leftFlag⟩, ?leftVF⟩⟩
  case right => rw [hx, shiftRight_one_toNat, s.reg_setFlag_of_ne _ h]
  case rightFlag => rw [hflag h, bottomBit_toNat]
  case rightVF =>
    rintro rfl
    rw [hx, shiftRight_one_toNat, s.reg_setFlag, if_pos rfl, bottomBit_toNat]
    omega
  case left => rw [hx', shiftLeft_one_toNat, s.reg_setFlag_of_ne _ h]
  case leftFlag => rw [hflag' h, topBit_toNat]
  case leftVF =>
    rintro rfl
    have hlt : (s.reg 15).toNat < 256 := (s.reg 15).isLt
    rw [hx', shiftLeft_one_toNat, s.reg_setFlag, if_pos rfl, topBit_toNat]
    omega

/-! The random byte. -/

theorem State.countDraw_sameBut_draws (s : State) : SameBut [.draws] s s.countDraw := by
  refine ⟨fun p hp => ?_, rfl, rfl⟩
  cases p with
  | draws => exact absurd List.mem_cons_self hp
  | stack => exact ⟨rfl, rfl⟩
  | memory | display => exact fun _ => rfl
  | index | delay | sound | redraw => exact rfl

/-- Settles O44: the count of draws is written first, which no register shows; then the masked draw is written to one
register. -/
theorem randomIsMaskedDraw : Obligations.RandomIsMaskedDraw := by
  intro s x kk
  obtain ⟨t, ht, hx, hok, hpc, hregs, hframe⟩ := s.countDraw.setReg_completes x (s.draw &&& kk)
  have hdraws : t.draws = s.draws + 1 := hframe.left .draws List.not_mem_nil
  refine ⟨t, ht, hok, hpc, fun j => ?bit, ?mask, hdraws, hregs,
    s.countDraw_sameBut_draws.trans (hframe.mono (List.nil_subset _))⟩
  case bit => rw [hx, BitVec.getLsbD_and, State.draw]
  case mask =>
    rintro rfl
    exact hx.trans BitVec.and_zero

end Sys2Proof.Machine
end

section
/-! SUPPORT. Index register and memory (43_index_and_memory.md): each rule ends in a write of `I` or in stores from `I`
upward, and the step of `pc` after it changes nothing else. -/

namespace Sys2Proof.Machine

open Sys2Proof.Claims

/-! What a frame says of memory, and what the end of an execute phase leaves unchanged. -/

theorem readByte_of_sameBut {ps : List Part} {s t : State} (h : SameBut ps s t) (hmem : Part.memory ∉ ps) (a : Nat) :
    t.readByte a = s.readByte a :=
  h.left .memory hmem a

/-- An execute phase that ends with the step to the next instruction. -/
theorem State.toNext_completes (s : State) :
    ∃ t, complete s.toNext = .next t ∧ t.outcome = .ok ∧ PcPlus 2 s t ∧ SameRegs s t ∧ SameBut [] s t :=
  ⟨_, rfl, rfl, s.setPc_add_pcPlus 2, fun _ _ => rfl, s.setPc_setOutcome_sameBut _ .ok⟩

theorem State.setI_sameBut_index (s : State) (a : Addr) : SameBut [.index] s (s.setI a) := by
  refine ⟨fun p hp => ?_, rfl, rfl⟩
  cases p with
  | index => exact absurd List.mem_cons_self hp
  | stack => exact ⟨rfl, rfl⟩
  | memory | display => exact fun _ => rfl
  | delay | sound | redraw | draws => exact rfl

/-- An execute phase that writes `I` and goes on to the next instruction. -/
theorem State.setI_completes (s : State) (a : Addr) :
    ∃ t, complete (s.setI a).toNext = .next t ∧ t.outcome = .ok ∧ t.i = a ∧ PcPlus 2 s t ∧ SameRegs s t ∧
      SameBut [.index] s t :=
  ⟨_, rfl, rfl, rfl, s.setPc_add_pcPlus 2, fun _ _ => rfl,
    (s.setI_sameBut_index a).trans ((State.setPc_setOutcome_sameBut _ _ .ok).mono (List.nil_subset _))⟩

/-- An execute phase that ends with the advance of `I` (43_index_and_memory.md R146). -/
theorem State.advanceI_completes (s : State) (n : Nat) :
    ∃ t, complete (s.advanceI n).toNext = .next t ∧ t.outcome = .ok ∧ t.i.toNat = (s.i.toNat + n) % 65536 ∧
      PcPlus 2 s t ∧ SameRegs s t ∧ SameBut [.index] s t := by
  obtain ⟨t, ht, hok, hi, hrest⟩ := s.setI_completes (s.i + BitVec.ofNat 16 n)
  exact ⟨t, ht, hok, by rw [hi, BitVec.toNat_add, BitVec.toNat_ofNat, Nat.add_mod_mod], hrest⟩

/-! The writes of `I`. -/

/-- Settles O45: `I` is the zero-extended operand. -/
theorem loadIndexSetsIndex : Obligations.LoadIndexSetsIndex := by
  intro s nnn
  obtain ⟨t, ht, hok, hi, hrest⟩ := s.setI_completes (zext12 nnn)
  exact ⟨t, ht, hok, by rw [hi, zext12_toNat], hrest⟩

theorem pastMemory_toNat (sum : Nat) : (pastMemory sum).toNat = if sum > 0xFFF then 1 else 0 :=
  apply_ite BitVec.toNat _ _ _

theorem add_zext8_toNat (a : Addr) (b : Byte) : (a + zext8 b).toNat = (a.toNat + b.toNat) % 65536 := by
  rw [BitVec.toNat_add, zext8, BitVec.toNat_setWidth_of_le (by decide)]

/-- An execute phase that writes VF as a flag, then adds a register to `I`: the register is read after the flag is
written (43_index_and_memory.md R141), so with X = 15 the flag is added. -/
theorem State.setFlag_addToIndex_completes (s : State) (f : Byte) (x : Idx) :
    ∃ t, complete ((s.setFlag f).setI (s.i + zext8 ((s.setFlag f).reg x))).toNext = .next t ∧ t.outcome = .ok ∧
      PcPlus 2 s t ∧ RegsBut (· = 15) s t ∧ SameBut [.index] s t ∧ t.reg 15 = f ∧
      t.i.toNat = (s.i.toNat + if x = 15 then f.toNat else (s.reg x).toNat) % 65536 := by
  obtain ⟨t, ht, hok, hi, hpc, hregs, hframe⟩ :=
    (s.setFlag f).setI_completes (s.i + zext8 ((s.setFlag f).reg x))
  have hother : RegsBut (· = 15) s t := fun r hr => (hregs r not_false).trans (s.reg_setFlag_of_ne f hr)
  have hflag : t.reg 15 = f := (hregs 15 not_false).trans (s.reg_setReg_same 15 f)
  exact ⟨t, ht, hok, hpc, hother, ((s.setReg_sameBut 15 f).mono (List.nil_subset _)).trans hframe, hflag,
    by rw [hi, add_zext8_toNat, s.reg_setFlag, apply_ite BitVec.toNat]⟩

/-- Settles O46: the flag is written from the exact sum, before the addition. -/
theorem addToIndexFlagsEndOfMemory : Obligations.AddToIndexFlagsEndOfMemory := by
  intro s x
  obtain ⟨t, ht, hok, hpc, hregs, hframe, hflag, hi⟩ :=
    s.setFlag_addToIndex_completes (pastMemory (s.i.toNat + (s.reg x).toNat)) x
  exact ⟨t, ht, hok, hpc, hregs, hframe, _, pastMemory_toNat _, by rw [hflag], hi⟩

/-! The decimal digits of a byte. -/

theorem hundreds_toNat (b : Byte) : (hundreds b).toNat = b.toNat / 100 :=
  Nat.mod_eq_of_lt ((Nat.div_le_self _ _).trans_lt b.isLt)

theorem tens_toNat (b : Byte) : (tens b).toNat = b.toNat / 10 % 10 :=
  Nat.mod_eq_of_lt ((Nat.mod_lt _ (by decide)).trans (by decide))

theorem ones_toNat (b : Byte) : (ones b).toNat = b.toNat % 10 :=
  Nat.mod_eq_of_lt ((Nat.mod_lt _ (by decide)).trans (by decide))

theorem digits_sum (b : Byte) : (hundreds b).toNat * 100 + (tens b).toNat * 10 + (ones b).toNat = b.toNat := by
  rw [hundreds_toNat, tens_toNat, ones_toNat]
  omega

/-- The bytes that FX33 stores, in memory order (43_index_and_memory.md R143). -/
def decimalDigits (b : Byte) : List Byte := [hundreds b, tens b, ones b]

theorem execFX33_eq_storeBytes (x : Idx) (s : State) :
    execFX33 x s = complete (s.storeBytes s.i.toNat (decimalDigits (s.reg x))).toNext := rfl

theorem State.readByte_storeBytes_decimalDigits (s : State) (b : Byte) :
    (s.storeBytes s.i.toNat (decimalDigits b)).readByte (s.elemAddr 0) = hundreds b ∧
    (s.storeBytes s.i.toNat (decimalDigits b)).readByte (s.elemAddr 1) = tens b ∧
    (s.storeBytes s.i.toNat (decimalDigits b)).readByte (s.elemAddr 2) = ones b := by
  have hlen : (decimalDigits b).length = 3 := rfl
  have hread := s.readByte_storeBytes_same s.i.toNat (decimalDigits b) (by omega)
  exact ⟨hread 0 (by omega), hread 1 (by omega), hread 2 (by omega)⟩

/-- Settles O48: the three digits are stored as a list of bytes, too short to wrap onto itself. -/
theorem storeDecimalDigits : Obligations.StoreDecimalDigits := by
  intro s x
  obtain ⟨t, ht, hok, hpc, hregs, hframe⟩ :=
    (s.storeBytes s.i.toNat (decimalDigits (s.reg x))).toNext_completes
  obtain ⟨hhundreds, htens, hones⟩ := s.readByte_storeBytes_decimalDigits (s.reg x)
  have hmem := readByte_of_sameBut hframe List.not_mem_nil
  refine ⟨t, (execFX33_eq_storeBytes x s).trans ht, hok, ?pc, ?sum, ?tens, ?ones, fun a ha => ?other, rfl, rfl, rfl,
    fun r hr => (hregs r hr).trans (s.storeBytes_reg _ _ r),
    (s.storeBytes_sameBut_memory _ _).trans (hframe.mono (List.nil_subset _))⟩
  case pc => rwa [PcPlus, State.storeBytes_pc] at hpc
  case sum => rw [hmem, hmem, hmem, hhundreds, htens, hones, digits_sum]
  case tens => rw [hmem, htens, tens_toNat]; exact Nat.mod_lt _ (by decide)
  case ones => rw [hmem, hones, ones_toNat]; exact Nat.mod_lt _ (by decide)
  case other => exact (hmem a).trans (s.readByte_storeBytes_other _ _ a ha)

/-! The stores of FX55 and the loads of FX65. -/

theorem regNo_val (j : Idx) : regNo j.val = j :=
  Fin.ofNat_val_eq_self j

theorem State.storeRegs_sameBut_memory (s : State) (n : Nat) : SameBut [.memory] s (s.storeRegs n) := by
  refine ⟨fun p hp => ?_, s.storeRegs_key n, s.storeRegs_font n⟩
  cases p with
  | memory => exact absurd List.mem_cons_self hp
  | index => exact s.storeRegs_i n
  | stack => exact ⟨s.storeRegs_stack n, s.storeRegs_sp n⟩
  | delay => exact s.storeRegs_dt n
  | sound => exact s.storeRegs_st n
  | display => exact s.storeRegs_cell n
  | redraw => exact s.storeRegs_redrawPending n
  | draws => exact s.storeRegs_draws n

/-- Settles O49: the stores change memory only, and the advance of `I` after them is the other write. -/
theorem storeRegistersFromIndex : Obligations.StoreRegistersFromIndex := by
  intro s x
  obtain ⟨t, ht, hok, hi, hpc, hregs, hframe⟩ := (s.storeRegs (x.val + 1)).advanceI_completes (x.val + 1)
  have hmem := readByte_of_sameBut hframe (by decide)
  have hread := s.readByte_storeRegs (x.val + 1) x.isLt
  refine ⟨t, ht, hok, ?pc, fun j hj => ?stored, fun a ha => ?other, fun _ => rfl, ?index,
    fun r hr => (hregs r hr).trans (s.storeRegs_reg _ r),
    ((s.storeRegs_sameBut_memory _).mono (by decide)).trans (hframe.mono (by decide))⟩
  case pc => rwa [PcPlus, State.storeRegs_pc] at hpc
  case stored =>
    rw [hmem, (hread (s.elemAddr j.val)).left j.val (Nat.lt_succ_of_le hj) rfl, regNo_val]
  case other =>
    exact (hmem a).trans
      ((hread a).right fun j hj => ha ⟨j, hj.trans_le x.isLt⟩ (Nat.le_of_lt_succ hj))
  case index => rw [hi, State.storeRegs_i, Nat.add_assoc]

/-- Registers are in no part that a frame names. -/
theorem State.loadRegs_sameBut (s : State) (n : Nat) : SameBut [] s (s.loadRegs n) := by
  refine ⟨fun p _ => ?_, s.loadRegs_key n, s.loadRegs_font n⟩
  cases p with
  | memory => exact s.loadRegs_readByte n
  | index => exact s.loadRegs_i n
  | stack => exact ⟨s.loadRegs_stack n, s.loadRegs_sp n⟩
  | delay => exact s.loadRegs_dt n
  | sound => exact s.loadRegs_st n
  | display => exact s.loadRegs_cell n
  | redraw => exact s.loadRegs_redrawPending n
  | draws => exact s.loadRegs_draws n

/-- Settles O50: the loads change the registers up to X only, and the advance of `I` after them changes no register. -/
theorem loadRegistersFromIndex : Obligations.LoadRegistersFromIndex := by
  intro s x
  obtain ⟨t, ht, hok, hi, hpc, hregs, hframe⟩ := (s.loadRegs (x.val + 1)).advanceI_completes (x.val + 1)
  have hreg (r : Idx) : t.reg r = if r.val < x.val + 1 then s.readByte (s.elemAddr r.val) else s.reg r :=
    (hregs r not_false).trans (s.reg_loadRegs (x.val + 1) x.isLt r)
  refine ⟨t, ht, hok, ?pc, fun j hj => (hreg j).trans (if_pos (Nat.lt_succ_of_le hj)),
    fun r hr => (hreg r).trans (if_neg fun hlt => hr (Nat.le_of_lt_succ hlt)), ?index,
    ((s.loadRegs_sameBut _).mono (List.nil_subset _)).trans hframe⟩
  case pc => rwa [PcPlus, State.loadRegs_pc] at hpc
  case index => rw [hi, State.loadRegs_i, Nat.add_assoc]

end Sys2Proof.Machine
end

section
/-! SUPPORT. A frame holds where nothing has changed. -/

namespace Sys2Proof.Claims

open Sys2Proof.Machine

theorem SameBut.refl (ps : List Part) (s : State) : SameBut ps s s := by
  refine ⟨fun p _ => ?_, rfl, rfl⟩
  cases p with
  | stack => exact ⟨rfl, rfl⟩
  | memory | display => exact fun _ => rfl
  | index | delay | sound | redraw | draws => exact rfl

end Sys2Proof.Claims
end

section
/-! SUPPORT. The display (44_display.md): the end that the two drawing instructions share, and a draw as the toggling of a
set of cells, built up from one cell to a row and to a sprite. -/

namespace Sys2Proof.Machine

open Sys2Proof.Claims

/-! The end of both instructions, and the clearing. -/

theorem cell_of_sameBut {ps : List Part} {s t : State} (h : SameBut ps s t) (hdisp : Part.display ∉ ps) (k : Nat) :
    t.cell k = s.cell k :=
  h.left .display hdisp k

theorem State.setRedraw_sameBut_redraw (s : State) (b : Bool) : SameBut [.redraw] s (s.setRedraw b) := by
  refine ⟨fun p hp => ?_, rfl, rfl⟩
  cases p with
  | redraw => exact absurd List.mem_cons_self hp
  | stack => exact ⟨rfl, rfl⟩
  | memory | display => exact fun _ => rfl
  | index | delay | sound | draws => exact rfl

/-- An execute phase that ends with the request to redraw and the step to the next instruction. -/
theorem State.setRedraw_completes (s : State) (b : Bool) :
    ∃ t, complete (s.setRedraw b).toNext = .next t ∧ t.outcome = .ok ∧ t.redrawPending = b ∧ PcPlus 2 s t ∧
      SameRegs s t ∧ SameBut [.redraw] s t :=
  ⟨_, rfl, rfl, rfl, s.setPc_add_pcPlus 2, fun _ _ => rfl,
    (s.setRedraw_sameBut_redraw b).trans ((State.setPc_setOutcome_sameBut _ _ .ok).mono (List.nil_subset _))⟩

theorem State.clearDisp_sameBut_display (s : State) : SameBut [.display] s s.clearDisp := by
  refine ⟨fun p hp => ?_, rfl, rfl⟩
  cases p with
  | display => exact absurd List.mem_cons_self hp
  | stack => exact ⟨rfl, rfl⟩
  | memory => exact fun _ => rfl
  | index | delay | sound | redraw | draws => exact rfl

/-- Settles O51: the cleared display reads 0 in every cell, and the end of the instruction does not change it. -/
theorem clearTurnsEveryPixelOff : Obligations.ClearTurnsEveryPixelOff := by
  intro s
  obtain ⟨t, ht, hok, hredraw, hpc, hregs, hframe⟩ := s.clearDisp.setRedraw_completes true
  have hcell (k : Nat) : t.cell k = 0 := (cell_of_sameBut hframe (by decide) k).trans (s.cell_clearDisp k)
  exact ⟨t, ht, hok, hcell, hredraw, hpc, hregs,
    (s.clearDisp_sameBut_display.mono (by decide)).trans (hframe.mono (by decide))⟩

/-! The toggling of a set of cells. -/

/-- `t` is `s` with the cells of `P` toggled, each once, and VF set if one of them was on; nothing else has changed
(44_display.md R162). -/
structure TogglesCells (P : Nat → Prop) (s t : State) : Prop where
  toggled : ∀ k, P k → t.cell k = s.cell k ^^^ 1
  kept : ∀ k, ¬ P k → t.cell k = s.cell k
  hit : (∃ k, P k ∧ s.cell k ≠ 0) → t.reg 15 = 1
  miss : (∀ k, P k → s.cell k = 0) → t.reg 15 = s.reg 15
  pc : t.pc = s.pc
  regs : RegsBut (· = 15) s t
  frame : SameBut [.display] s t

theorem State.togglePixel_sameBut_display (s : State) (k : Nat) : SameBut [.display] s (s.togglePixel k) := by
  refine ⟨fun p hp => ?_, s.togglePixel_key k, s.togglePixel_font k⟩
  cases p with
  | display => exact absurd List.mem_cons_self hp
  | index => exact s.togglePixel_i k
  | stack => exact ⟨s.togglePixel_stack k, s.togglePixel_sp k⟩
  | memory => exact s.togglePixel_readByte k
  | delay => exact s.togglePixel_dt k
  | sound => exact s.togglePixel_st k
  | redraw => exact s.togglePixel_redrawPending k
  | draws => exact s.togglePixel_draws k

theorem State.togglePixel_togglesCells (s : State) (k : Nat) : TogglesCells (· = k) s (s.togglePixel k) := by
  obtain ⟨hcell, hreg⟩ := s.togglePixel_spec k
  refine ⟨?toggled, fun q hq => (hcell q).trans (if_neg hq), ?hit, fun h => ?miss, s.togglePixel_pc k,
    fun r hr => (hreg r).trans (if_neg fun h => hr h.left), s.togglePixel_sameBut_display k⟩
  case toggled => rintro q rfl; exact (hcell q).trans (if_pos rfl)
  case hit => rintro ⟨q, rfl, hon⟩; exact (hreg 15).trans (if_pos ⟨rfl, hon⟩)
  case miss => exact (hreg 15).trans (if_neg fun hon => hon.right (h k rfl))

section
variable {P Q : Nat → Prop} {s t u : State}

theorem TogglesCells.of_empty (hP : ∀ k, ¬ P k) (s : State) : TogglesCells P s s where
  toggled k hk := absurd hk (hP k)
  kept _ _ := rfl
  hit := fun ⟨k, hk, _⟩ => absurd hk (hP k)
  miss _ := rfl
  pc := rfl
  regs _ _ := rfl
  frame := SameBut.refl _ s

/-- Two sets of cells without a common cell, toggled one after the other: the second meets its cells as they were before
the first, and it leaves a VF set by the first. -/
theorem TogglesCells.trans (hst : TogglesCells P s t) (htu : TogglesCells Q t u) (hdisj : ∀ k, P k → ¬ Q k) :
    TogglesCells (fun k => P k ∨ Q k) s u := by
  have hcell (k : Nat) (hk : Q k) : t.cell k = s.cell k := hst.kept k fun hp => hdisj k hp hk
  refine ⟨?toggled, fun k hk => ?kept, ?hit, fun h => ?miss, htu.pc.trans hst.pc,
    fun r hr => (htu.regs r hr).trans (hst.regs r hr), hst.frame.trans htu.frame⟩
  case toggled =>
    rintro k (hk | hk)
    · rw [htu.kept k (hdisj k hk), hst.toggled k hk]
    · rw [htu.toggled k hk, hcell k hk]
  case kept => rw [htu.kept k fun hq => hk (.inr hq), hst.kept k fun hp => hk (.inl hp)]
  case hit =>
    rintro ⟨k, hk, hon⟩
    by_cases hmeet : ∃ q, Q q ∧ t.cell q ≠ 0
    · exact htu.hit hmeet
    · have hP : P k := hk.resolve_right fun hq => hmeet ⟨k, hq, by rwa [hcell k hq]⟩
      rw [htu.miss fun q hq => by_contra fun hne => hmeet ⟨q, hq, hne⟩, hst.hit ⟨k, hP, hon⟩]
  case miss =>
    rw [htu.miss fun k hk => (hcell k hk).trans (h k (.inr hk)), hst.miss fun k hk => h k (.inl hk)]

end

/-- A loop whose iterations each toggle a set of cells, no cell in two of them. -/
theorem TogglesCells.loop {P : Nat → Nat → Prop} {f : Nat → State → State} {s : State} (n : Nat)
    (huniq : ∀ j < n, ∀ k < n, ∀ q, P j q → P k q → j = k)
    (hf : ∀ k < n, ∀ t, SameBut [.display] s t → TogglesCells (P k) t (f k t)) :
    TogglesCells (fun q => ∃ k < n, P k q) s (forUpTo n f s) := by
  induction n with
  | zero => exact .of_empty (fun _ ⟨_, hk, _⟩ => absurd hk (Nat.not_lt_zero _)) s
  | succ n ih =>
    have hbefore := ih (fun j hj k hk => huniq j (hj.trans n.lt_succ_self) k (hk.trans n.lt_succ_self))
      fun k hk => hf k (hk.trans n.lt_succ_self)
    have hlast := hf n n.lt_succ_self _ hbefore.frame
    simp only [Nat.exists_lt_succ_right]
    refine hbefore.trans hlast ?_
    rintro q ⟨j, hj, hjq⟩ hnq
    exact hj.ne (huniq j (hj.trans n.lt_succ_self) n n.lt_succ_self q hjq hnq)

/-! From one cell to a row and to a sprite. -/

/-- The cells under the bits of 1 of row `r`, whose byte is `b`, of a sprite at origin `(x0, y0)` (44_display.md R162). -/
def RowCells (x0 y0 r : Nat) (b : Byte) (k : Nat) : Prop :=
  ∃ col < 8, spriteBit b col = true ∧ k = pixelIndex x0 y0 col r

/-- The cells under the bits of 1 of a sprite of `n` rows, read from `I` upward. -/
def SpriteCells (s : State) (x0 y0 n k : Nat) : Prop :=
  ∃ r < n, RowCells x0 y0 r (s.readByte (s.elemAddr r)) k

/-- A sprite is smaller than the display on both axes, so no two of its bits fall on one cell. -/
theorem pixelIndex_inj {x0 y0 col col' r r' : Nat} (hcol : col < 8) (hcol' : col' < 8) (hr : r < 16) (hr' : r' < 16)
    (h : pixelIndex x0 y0 col r = pixelIndex x0 y0 col' r') : col = col' ∧ r = r' := by
  unfold pixelIndex at h
  omega

theorem State.drawRow_togglesCells (s : State) (x0 y0 r : Nat) (hr : r < 16) :
    TogglesCells (RowCells x0 y0 r (s.readByte (s.elemAddr r))) s (s.drawRow x0 y0 r) := by
  unfold State.drawRow
  refine TogglesCells.loop
    (P := fun col k => spriteBit (s.readByte (s.elemAddr r)) col = true ∧ k = pixelIndex x0 y0 col r)
    8 ?_ fun col _ t _ => ?_
  · rintro j hj k hk q ⟨-, rfl⟩ ⟨-, h⟩
    exact (pixelIndex_inj hj hk hr hr h).left
  · split
    next hbit => simpa only [hbit, true_and] using t.togglePixel_togglesCells _
    next hbit => exact .of_empty (fun _ h => hbit h.left) t

theorem State.drawRows_togglesCells (s : State) (x0 y0 n : Nat) (hn : n ≤ 16) :
    TogglesCells (SpriteCells s x0 y0 n) s (forUpTo n (State.drawRow x0 y0) s) := by
  refine .loop n ?_ fun r hr t ht => ?_
  · rintro j hj k hk q ⟨col, hcol, -, rfl⟩ ⟨col', hcol', -, h⟩
    exact (pixelIndex_inj hcol hcol' (hj.trans_le hn) (hk.trans_le hn) h).right
  · have hbyte : t.readByte (t.elemAddr r) = s.readByte (s.elemAddr r) := by
      rw [readByte_of_sameBut ht (by decide), State.elemAddr, ht.left .index (by decide), State.elemAddr]
    exact hbyte ▸ t.drawRow_togglesCells x0 y0 r (hr.trans_le hn)

/-! The sprite on the display's columns and rows (44_display.md R161). -/

theorem spriteCells_iff_touches (s : State) (x y : Idx) (n : Nat) {px py : Nat} (hpx : px < 64) :
    SpriteCells s (originOf (s.reg x)) (originOf (s.reg y)) n (py * 64 + px) ↔ Touches s x y n px py := by
  have hcell (col r : Nat) : py * 64 + px = pixelIndex (originOf (s.reg x)) (originOf (s.reg y)) col r ↔
      px = ((s.reg x).toNat + col) % 64 ∧ py = ((s.reg y).toNat + r) % 32 := by
    unfold pixelIndex originOf
    omega
  simp only [SpriteCells, RowCells, Touches, hcell]
  rfl

theorem SpriteCells.lt {s : State} {x0 y0 n k : Nat} (h : SpriteCells s x0 y0 n k) : k < 2048 := by
  obtain ⟨r, -, col, -, -, rfl⟩ := h
  exact pixelIndex_lt x0 y0 col r

/-- Settles O52: each bit of 1 has a cell of its own, so a sprite toggles the set of the cells under its bits, whose origin
is taken before VF is cleared; and each of these cells has a column and a row. -/
theorem drawTogglesExactlyTouchedPixels : Obligations.DrawTogglesExactlyTouchedPixels := by
  intro s x y n
  have htouches {px py : Nat} (hpx : px < 64) := spriteCells_iff_touches s x y n.val (py := py) hpx
  have hdraw : TogglesCells (SpriteCells s (originOf (s.reg x)) (originOf (s.reg y)) n.val) (s.setFlag 0) _ :=
    (s.setFlag 0).drawRows_togglesCells (originOf (s.reg x)) (originOf (s.reg y)) n.val n.isLt.le
  obtain ⟨t, ht, hok, hredraw, hpc, hregs, hframe⟩ := State.setRedraw_completes (forUpTo n.val
    (State.drawRow (originOf (s.reg x)) (originOf (s.reg y))) (s.setFlag 0)) true
  have hcell := cell_of_sameBut hframe (by decide)
  have hflag := hregs 15 not_false
  refine ⟨t, ht, hok, ?pc, fun px hpx py _ => ⟨fun h => ?toggled, fun h => ?kept⟩, fun k hk => ?outside, ?hit,
    fun h => ?miss, hredraw, fun r hr => ?regs, ?frame⟩
  case pc => rwa [PcPlus, hdraw.pc] at hpc
  case toggled => exact (hcell _).trans (hdraw.toggled _ ((htouches hpx).mpr h))
  case kept => exact (hcell _).trans (hdraw.kept _ fun hon => h ((htouches hpx).mp hon))
  case outside => exact (hcell k).trans (hdraw.kept k fun hon => (Nat.not_lt.mpr hk) hon.lt)
  case hit =>
    rintro ⟨px, hpx, py, -, htouch, hon⟩
    exact hflag.trans (hdraw.hit ⟨_, (htouches hpx).mpr htouch, hon⟩)
  case miss =>
    refine hflag.trans ((hdraw.miss fun k hk => ?_).trans (s.reg_setReg_same 15 0))
    obtain ⟨px, hpx, py, hpy, rfl⟩ : ∃ px < 64, ∃ py < 32, k = py * 64 + px := by
      have := hk.lt
      exact ⟨k % 64, by omega, k / 64, by omega, by omega⟩
    exact h px hpx py hpy ((htouches hpx).mp hk)
  case regs => exact (hregs r not_false).trans ((hdraw.regs r hr).trans (s.reg_setFlag_of_ne 0 hr))
  case frame =>
    exact ((s.setReg_sameBut 15 0).mono (List.nil_subset _)).trans
      ((hdraw.frame.mono (by decide)).trans (hframe.mono (by decide)))

end Sys2Proof.Machine
end

section
/-! SUPPORT. The timers (45_keypad_and_timers.md): what a write of a timer leaves unchanged, and what the tick that ends the
same step makes of the state an execute phase leaves. -/

namespace Sys2Proof.Machine

open Sys2Proof.Claims

/-! The writes of the timers, alone and at the end of an execute phase. -/

theorem State.setDt_sameBut_delay (s : State) (b : Byte) : SameBut [.delay] s (s.setDt b) := by
  refine ⟨fun p hp => ?_, rfl, rfl⟩
  cases p with
  | delay => exact absurd List.mem_cons_self hp
  | stack => exact ⟨rfl, rfl⟩
  | memory | display => exact fun _ => rfl
  | index | sound | redraw | draws => exact rfl

theorem State.setSt_sameBut_sound (s : State) (b : Byte) : SameBut [.sound] s (s.setSt b) := by
  refine ⟨fun p hp => ?_, rfl, rfl⟩
  cases p with
  | sound => exact absurd List.mem_cons_self hp
  | stack => exact ⟨rfl, rfl⟩
  | memory | display => exact fun _ => rfl
  | index | delay | redraw | draws => exact rfl

/-- An execute phase that writes the delay timer and goes on to the next instruction. -/
theorem State.setDt_completes (s : State) (b : Byte) :
    ∃ t, complete (s.setDt b).toNext = .next t ∧ t.outcome = .ok ∧ t.dt = b ∧ PcPlus 2 s t ∧ SameRegs s t ∧
      SameBut [.delay] s t := by
  obtain ⟨t, ht, hok, hpc, hregs, hframe⟩ := (s.setDt b).toNext_completes
  exact ⟨t, ht, hok, hframe.left .delay List.not_mem_nil, hpc, hregs,
    (s.setDt_sameBut_delay b).trans (hframe.mono (List.nil_subset _))⟩

/-- An execute phase that writes the sound timer and goes on to the next instruction. -/
theorem State.setSt_completes (s : State) (b : Byte) :
    ∃ t, complete (s.setSt b).toNext = .next t ∧ t.outcome = .ok ∧ t.st = b ∧ PcPlus 2 s t ∧ SameRegs s t ∧
      SameBut [.sound] s t := by
  obtain ⟨t, ht, hok, hpc, hregs, hframe⟩ := (s.setSt b).toNext_completes
  exact ⟨t, ht, hok, hframe.left .sound List.not_mem_nil, hpc, hregs,
    (s.setSt_sameBut_sound b).trans (hframe.mono (List.nil_subset _))⟩

/-- The tick comes after the execute phase (40_step_cycle.md R80): it counts down the timers that phase leaves and keeps
the registers. -/
theorem step_counts_down_of_exec {s m : State} {i : Instr} (hdecode : decodeWord s.fetch = .ok i)
    (hexec : exec i s = .next m) :
    ∃ u, step s = .next u ∧ u.dt.toNat = m.dt.toNat - 1 ∧ u.st.toNat = m.st.toNat - 1 ∧ SameRegs m u := by
  obtain ⟨hdt, hst, -, -, hregs, -⟩ := tickCountsTimersDown m
  exact ⟨m.tick, step_of_exec hdecode hexec, hdt, hst, hregs⟩

/-- Settles O56: the execute phase copies the delay timer and leaves it as it is; the tick then counts it down and keeps the
copy. -/
theorem delayTimerIsReadBeforeTick : Obligations.DelayTimerIsReadBeforeTick := by
  intro s x
  obtain ⟨t, ht, hx, hwrites⟩ := s.setReg_completes x s.dt
  refine ⟨⟨t, ht, hx, hwrites⟩, fun hdecode => ?step⟩
  case step =>
    obtain ⟨-, -, -, hframe⟩ := hwrites
    have hkept : t.dt = s.dt := hframe.left .delay List.not_mem_nil
    obtain ⟨u, hu, hdt, -, hregs⟩ := step_counts_down_of_exec hdecode ht
    exact ⟨u, hu, (hregs x not_false).trans hx, by rw [hdt, hkept]⟩

/-- Settles O57: the timer is the register's value where the execute phase ends, and the tick takes one off it. -/
theorem timerWritesLoseOneInTheSameStep : Obligations.TimerWritesLoseOneInTheSameStep := by
  intro s x
  obtain ⟨t, ht, hok, hdelay, hrest⟩ := s.setDt_completes (s.reg x)
  obtain ⟨t', ht', hok', hsound, hrest'⟩ := s.setSt_completes (s.reg x)
  refine ⟨⟨t, ht, hok, hdelay, hrest⟩, ⟨t', ht', hok', hsound, hrest'⟩, fun hdecode => ?delay, fun hdecode => ?sound⟩
  case delay =>
    obtain ⟨u, hu, hdt, -, -⟩ := step_counts_down_of_exec hdecode ht
    exact ⟨u, hu, by rw [hdt, hdelay]⟩
  case sound =>
    obtain ⟨u, hu, -, hst, -⟩ := step_counts_down_of_exec hdecode ht'
    exact ⟨u, hu, by rw [hst, hsound]⟩

end Sys2Proof.Machine
end

section
/-! SUPPORT. The conditions of a step (60_exceptions.md): where the call and the return raise theirs, that every other
execute phase completes, and the outcome that follows for a step. -/

namespace Sys2Proof.Machine

open Sys2Proof.Claims

/-! The two stack conditions (60_exceptions.md R202). -/

/-- The outcome is the model's own field (log 1), in no part that a frame names. -/
theorem State.setOutcome_sameBut (s : State) (c : StepOutcome) : SameBut [] s (s.setOutcome c) :=
  s.setPc_setOutcome_sameBut s.pc c

theorem exec00EE_of_sp_eq_zero {s : State} (h : s.sp.val = 0) : exec00EE s = raise (.stackUnderflow s.pc) s :=
  dif_pos (Fin.ext h)

theorem exec2NNN_of_sp_eq_sixteen {s : State} (nnn : BitVec 12) (h : s.sp.val = 16) :
    exec2NNN nnn s = raise (.stackOverflow s.pc) s :=
  dif_neg h.not_lt

/-- Settles O33: both raise their condition from the state they were given, and the record of the outcome is in no part
that a frame names. -/
theorem stackConditionsChangeNothing : Obligations.StackConditionsChangeNothing :=
  ⟨fun s nnn hsp =>
    ⟨_, exec2NNN_of_sp_eq_sixteen nnn hsp, rfl, rfl, fun _ _ => rfl, s.setOutcome_sameBut (.stackOverflow s.pc)⟩,
  fun s hsp =>
    ⟨_, exec00EE_of_sp_eq_zero hsp, rfl, rfl, fun _ _ => rfl, s.setOutcome_sameBut (.stackUnderflow s.pc)⟩⟩

/-! The causes of the conditions (60_exceptions.md R200). -/

/-- FX0A completes also while it waits (45_keypad_and_timers.md R172). -/
theorem execFX0A_completes (x : Idx) (s : State) : ∃ u, execFX0A x s = complete u := by
  unfold execFX0A
  split
  · exact ⟨_, rfl⟩
  · exact ⟨_, rfl⟩

section
variable {i : Instr} {s : State}

/-- Only a call on a full stack and a return on an empty one end in a condition. -/
theorem exec_completes (hcall : ¬ ((∃ nnn, i = .op2NNN nnn) ∧ s.sp.val = 16))
    (hreturn : ¬ (i = .op00EE ∧ s.sp.val = 0)) : ∃ u, exec i s = complete u := by
  cases i
  case op00EE =>
    obtain ⟨n, hn⟩ := Fin.exists_succ_eq.mpr fun h : s.sp = 0 => hreturn ⟨rfl, Fin.val_eq_of_eq h⟩
    exact ⟨_, exec00EE_of_sp_eq_succ hn.symm⟩
  case op2NNN nnn =>
    obtain ⟨n, hn⟩ := Fin.exists_castSucc_eq.mpr fun h : s.sp = Fin.last 16 => hcall ⟨⟨nnn, rfl⟩, Fin.val_eq_of_eq h⟩
    exact ⟨_, exec2NNN_of_sp_eq_castSucc nnn hn.symm⟩
  case opFX0A x => exact execFX0A_completes x s
  all_goals exact ⟨_, rfl⟩

/-- What an execute phase raises is the outcome of the state it leaves; `complete` raises OK. -/
theorem outcome_of_exec_eq_raise {c : StepOutcome} {m u : State} (hexec : exec i s = .next m)
    (hraise : exec i s = raise c u) : m.outcome = c := by
  have hm : m = u.setOutcome c := Host.Outcome.next.inj (hexec.symm.trans hraise)
  rw [hm, State.setOutcome_outcome]

/-- The outcome of an instruction and its cause: the three cases exclude one another. -/
theorem exec_outcome_cases {m : State} (hexec : exec i s = .next m) :
    (m.outcome = .stackOverflow s.pc ∧ (∃ nnn, i = .op2NNN nnn) ∧ s.sp.val = 16) ∨
    (m.outcome = .stackUnderflow s.pc ∧ i = .op00EE ∧ s.sp.val = 0) ∨
    (m.outcome = .ok ∧ ¬ ((∃ nnn, i = .op2NNN nnn) ∧ s.sp.val = 16) ∧ ¬ (i = .op00EE ∧ s.sp.val = 0)) := by
  by_cases hcall : (∃ nnn, i = .op2NNN nnn) ∧ s.sp.val = 16
  · obtain ⟨⟨nnn, rfl⟩, hsp⟩ := hcall
    exact .inl ⟨outcome_of_exec_eq_raise hexec (exec2NNN_of_sp_eq_sixteen nnn hsp), ⟨nnn, rfl⟩, hsp⟩
  by_cases hreturn : i = .op00EE ∧ s.sp.val = 0
  · obtain ⟨rfl, hsp⟩ := hreturn
    exact .inr (.inl ⟨outcome_of_exec_eq_raise hexec (exec00EE_of_sp_eq_zero hsp), rfl, hsp⟩)
  obtain ⟨u, hu⟩ := exec_completes hcall hreturn
  exact .inr (.inr ⟨outcome_of_exec_eq_raise hexec hu, hcall, hreturn⟩)

end

/-- Settles O19: the outcome is the one the execute phase leaves, since the tick keeps it. -/
theorem outcomeNamesItsCause : Obligations.OutcomeNamesItsCause := by
  intro s t hstep
  obtain ⟨i, m, hdecode, hexec, rfl⟩ | ⟨e, hdecode, rfl⟩ := step_cases hstep
  · have hcases := exec_outcome_cases hexec
    rw [hdecode]
    exact hcases
  · rw [hdecode]
    exact rfl

end Sys2Proof.Machine
end

section
/-! SUPPORT. The invariant (log 6, log 12): it holds after reset, every execute phase, every step and every move of the
host keeps it, and so it holds of every state a host can reach. -/

namespace Sys2Proof.Machine

/-- Reset lists no byte and no cell. -/
theorem State.inv_resetWith (font : Vector Byte 80) (n : Nat) : (State.resetWith font n).Inv :=
  ⟨Memory.wf_reset font n, ⟨List.Pairwise.nil, fun _ h => absurd h List.not_mem_nil⟩,
    fun _ h => absurd h List.not_mem_nil⟩

/-- Settles O23: both are `State.resetWith`. -/
theorem resetSatisfiesInvariant : Obligations.ResetSatisfiesInvariant :=
  ⟨State.inv_resetWith Config.font 0, fun s => State.inv_resetWith s.font s.draws⟩

section
variable {s : State} (h : s.Inv)
include h

/-- The invariant speaks of FONT, memory and the display only. -/
theorem State.Inv.of_eq {t : State} (hfont : t.font = s.font) (hmem : t.mem = s.mem) (hdisp : t.disp = s.disp) :
    t.Inv := by
  unfold State.Inv State.BinaryDisplay
  rwa [hfont, hmem, hdisp]

theorem State.Inv.skipIf (c : Bool) : (s.skipIf c).Inv := by
  rw [s.skipIf_eq c]
  exact h

theorem State.Inv.writeByte (a : Nat) (b : Byte) : (s.writeByte a b).Inv :=
  ⟨Memory.wf_writeByte h.left a b, h.right⟩

theorem State.Inv.storeBytes (a : Nat) (bs : List Byte) : (s.storeBytes a bs).Inv := by
  induction bs generalizing s a with
  | nil => exact h
  | cons b bs ih => exact ih (h.writeByte a b) (a + 1)

theorem State.Inv.storeRegs (n : Nat) : (s.storeRegs n).Inv :=
  forUpTo_keeps n h fun _ _ _ ht => ht.writeByte _ _

theorem State.Inv.loadRegs (n : Nat) : (s.loadRegs n).Inv :=
  h.of_eq (s.loadRegs_font n) (s.loadRegs_mem n) (s.loadRegs_disp n)

/-- A cleared display lists no cell. -/
theorem State.Inv.clearDisp : s.clearDisp.Inv :=
  ⟨h.left, ⟨List.Pairwise.nil, fun _ h => absurd h List.not_mem_nil⟩, fun _ h => absurd h List.not_mem_nil⟩

theorem State.Inv.drawRow (x0 y0 r : Nat) : (s.drawRow x0 y0 r).Inv := by
  have hmem : Memory.wf (s.drawRow x0 y0 r).font (s.drawRow x0 y0 r).mem := by
    rw [s.drawRow_font, s.drawRow_mem]
    exact h.left
  exact ⟨hmem, Display.kept_drawRow h.right x0 y0 r⟩

theorem State.Inv.drawRows (x0 y0 n : Nat) : (forUpTo n (State.drawRow x0 y0) s).Inv :=
  forUpTo_keeps n h fun r _ _ ht => ht.drawRow x0 y0 r

/-- Where an instruction writes neither memory nor the display, the invariant of the state it leaves is, unfolded, that of
the state before. -/
theorem State.Inv.exists_exec (i : Instr) : ∃ t, exec i s = .next t ∧ t.Inv := by
  cases i
  case op00E0 => exact ⟨_, rfl, h.clearDisp⟩
  case opDXYN x y n => exact ⟨_, rfl, State.Inv.drawRows (s := s.setFlag 0) h _ _ n.val⟩
  case opFX33 x => exact ⟨_, execFX33_eq_storeBytes x s, h.storeBytes _ (decimalDigits (s.reg x))⟩
  case opFX55 x => exact ⟨_, rfl, h.storeRegs (x.val + 1)⟩
  case opFX65 x => exact ⟨_, rfl, h.loadRegs (x.val + 1)⟩
  case op3XKK | op4XKK | op5XY0 | op9XY0 | opEX9E | opEXA1 => exact ⟨_, rfl, h.skipIf _⟩
  case op00EE => simp only [exec, exec00EE]; split <;> exact ⟨_, rfl, h⟩
  case op2NNN => simp only [exec, exec2NNN]; split <;> exact ⟨_, rfl, h⟩
  case opFX0A => simp only [exec, execFX0A]; split <;> exact ⟨_, rfl, h⟩
  all_goals exact ⟨_, rfl, h⟩

end

/-- Settles O24: an execute phase keeps the invariant, an unrecognised word writes neither memory nor the display, and
nor does the tick. -/
theorem stepKeepsInvariant : Obligations.StepKeepsInvariant := by
  intro s t h hstep
  obtain ⟨i, m, -, hexec, rfl⟩ | ⟨e, -, rfl⟩ := step_cases hstep
  · obtain ⟨m', hexec', hm⟩ := h.exists_exec i
    cases hexec.symm.trans hexec'
    exact hm
  · exact h

theorem State.inv_loadProgram (s : State) (bytes : List Byte) : (s.loadProgram bytes).2.Inv := by
  have hreset : s.resetOp.Inv := State.inv_resetWith s.font s.draws
  obtain hle | hgt := le_or_gt bytes.length 3584
  · rw [s.loadProgram_of_le hle]
    exact hreset.storeBytes 0x200 bytes
  · rw [s.loadProgram_of_gt hgt]
    exact hreset

/-- Settles O25: a reset and a load begin from the reset state, a step keeps the invariant, and the other moves write
neither memory nor the display. -/
theorem hostMovesKeepInvariant : Obligations.HostMovesKeepInvariant := by
  intro m s t r h hmove
  cases m with
  | step =>
    rw [hostMove] at hmove
    split at hmove
    next u hu =>
      cases hmove
      exact stepKeepsInvariant s t h hu
    next => cases hmove
    next => cases hmove
  | reset => cases hmove; exact State.inv_resetWith s.font s.draws
  | loadProgram bytes => cases hmove; exact s.inv_loadProgram bytes
  | setKeys | clearRedrawPending => cases hmove; exact h
  | readDisplay | readRedrawPending | readSoundTimer => cases hmove; exact h

theorem Reachable.inv {s : State} (h : Reachable s) : s.Inv := by
  induction h with
  | reset => exact State.inv_resetWith Config.font 0
  | move _ hmove ih => exact hostMovesKeepInvariant _ _ _ _ ih hmove

theorem State.readDisplay_length (s : State) : s.readDisplay.length = 2048 := by
  rw [State.readDisplay, List.length_map, List.length_range]

/-- Settles O26: by the invariant, every cell listed is 1, and every byte listed has an address below 4096. -/
theorem reachablePixelsAreZeroOrOne : Obligations.ReachablePixelsAreZeroOrOne := by
  intro s hs
  obtain ⟨⟨-, hmem⟩, -, hbinary⟩ := hs.inv
  refine ⟨fun c hc => ?_, s.readDisplay_length, fun c hc => (hmem c hc).left⟩
  obtain ⟨k, -, rfl⟩ := List.mem_map.mp hc
  exact s.cell_binary hbinary k

end Sys2Proof.Machine
end

section
/-! SUPPORT. The keypad (45_keypad_and_timers.md), and the two single-register forms of control flow and the index
register: BNNN and FX29. -/

namespace Sys2Proof.Machine

open Sys2Proof.Claims

/-! The key that a byte names, and the greatest pressed one. -/

/-- The low four bits select the key (45_keypad_and_timers.md R176). -/
theorem State.keyAt_of_val_eq (s : State) {b : Byte} {k : Idx} (h : k.val = b.toNat % 16) : s.keyAt b = s.key[k] := by
  have hk : Fin.ofNat 16 b.toNat = k := Fin.ext h.symm
  simp only [State.keyAt, hk]

/-- Settles O54: each is one skip, whose condition is the state of the key that the register names. -/
theorem keySkipsReadLatch : Obligations.KeySkipsReadLatch := by
  intro s x k hk
  have hkey : s.keyAt (s.reg x) = s.key[k] := s.keyAt_of_val_eq hk
  have hpressed := s.skipIf_completes (P := s.key[k] = true) (c := s.keyAt (s.reg x)) (by rw [hkey])
  have hreleased := s.skipIf_completes (P := ¬ s.key[k] = true) (c := !s.keyAt (s.reg x)) (by rw [hkey]; simp)
  rw [ite_not] at hreleased
  exact ⟨hpressed, hreleased⟩

theorem highestKey_eq_some {key : Vector Bool 16} {k : Idx} (hk : key[k] = true)
    (habove : ∀ j : Idx, k < j → key[j] = false) : highestKey key 16 = some k := by
  have hspec := highestKey_spec key 16 le_rfl
  split at hspec
  next => exact absurd (hspec k k.isLt) (by simp [hk])
  next j _ =>
    obtain ⟨-, hj, hhigher⟩ := hspec
    obtain hlt | rfl | hgt := lt_trichotomy j k
    · exact absurd (hhigher k hlt k.isLt) (by simp [hk])
    · assumption
    · exact absurd (habove j hgt) (by simp [hj])

theorem highestKey_eq_none {key : Vector Bool 16} (hnone : ∀ j : Idx, key[j] = false) : highestKey key 16 = none := by
  have hspec := highestKey_spec key 16 le_rfl
  split at hspec
  next => assumption
  next j _ => exact absurd hspec.right.left (by simp [hnone j])

theorem execFX0A_of_highestKey_eq_some {s : State} {k : Idx} (x : Idx) (h : highestKey s.key 16 = some k) :
    execFX0A x s = complete (s.setReg x (BitVec.ofNat 8 k.val)).toNext := by
  rw [execFX0A, h]

theorem execFX0A_of_highestKey_eq_none {s : State} (x : Idx) (h : highestKey s.key 16 = none) :
    execFX0A x s = complete s := by
  rw [execFX0A, h]

/-- Settles O55: the scan ends at the greatest pressed key, which is written to one register; where none is pressed the
outcome is the one write. -/
theorem keyWaitTakesHighestKey : Obligations.KeyWaitTakesHighestKey := by
  refine ⟨fun s x k hk habove => ?pressed, fun s x hnone => ?waiting⟩
  case pressed =>
    obtain ⟨t, ht, hx, hwrites⟩ := s.setReg_completes x (BitVec.ofNat 8 k.val)
    have hbyte : (BitVec.ofNat 8 k.val).toNat = k.val := Nat.mod_eq_of_lt (k.isLt.trans (by decide))
    exact ⟨t, (execFX0A_of_highestKey_eq_some x (highestKey_eq_some hk habove)).trans ht, by rw [hx, hbyte], hwrites⟩
  case waiting =>
    exact ⟨_, execFX0A_of_highestKey_eq_none x (highestKey_eq_none hnone), rfl, rfl, fun _ _ => rfl,
      s.setOutcome_sameBut .ok⟩

/-! BNNN and FX29. -/

/-- Settles O35: the sum of a 12-bit operand and a byte is below 65536. -/
theorem indexedJumpAddsRegisterZero : Obligations.IndexedJumpAddsRegisterZero := by
  intro s nnn
  have hpc : (zext12 nnn + zext8 (s.reg 0)).toNat = nnn.toNat + (s.reg 0).toNat := by
    have hnnn := nnn.isLt
    have hreg := (s.reg 0).isLt
    rw [add_zext8_toNat, zext12_toNat]
    omega
  exact ⟨_, rfl, rfl, hpc, fun _ _ => rfl, s.setPc_setOutcome_sameBut _ .ok⟩

/-- Settles O47: five times a byte is below 65536, and five times a digit is at most 75. -/
theorem glyphAddressIsFiveTimesDigit : Obligations.GlyphAddressIsFiveTimesDigit := by
  intro s x
  obtain ⟨t, ht, hok, hi, hrest⟩ := s.setI_completes (BitVec.ofNat 16 ((s.reg x).toNat * 5))
  have hindex : t.i.toNat = (s.reg x).toNat * 5 := by
    have hreg := (s.reg x).isLt
    rw [hi, BitVec.toNat_ofNat]
    omega
  exact ⟨t, ht, hok, hindex, fun hdigit => by omega, hrest⟩

end Sys2Proof.Machine
end

section
/-! SUPPORT. Words in memory (20_memory.md), the spec's example words (30_encoding.md), and the host's access to the
machine (70_reset_and_hazards.md). -/

namespace Sys2Proof.Machine

open Sys2Proof.Claims

/-- Settles O1: the decoder is evaluated on each word. -/
theorem specWordsDecode : Obligations.SpecWordsDecode :=
  ⟨rfl, rfl, rfl, rfl, rfl, rfl, rfl, rfl⟩

/-- Settles O6: the fetch is the read of a word at `pc`; an access reduces its address modulo 4096. -/
theorem fetchedWordIsBigEndian : Obligations.FetchedWordIsBigEndian := by
  have hfetch (s : State) : s.fetch.toNat =
      (s.readByte (s.pc.toNat % 4096)).toNat * 256 + (s.readByte ((s.pc.toNat + 1) % 4096)).toNat := by
    rw [State.fetch, s.readWord_toNat, s.readByte_mod, s.readByte_mod]
  refine ⟨hfetch, fun s hpc => ?_⟩
  rw [hfetch, hpc]
  rfl

/-- Settles O22: the two addresses differ modulo 4096, so the second write keeps the byte of the first. -/
theorem storedWordIsFetched : Obligations.StoredWordIsFetched := by
  intro s a w
  refine ⟨?word, fun q ha ha' => ?other⟩
  case word =>
    have hne : a % 4096 ≠ (a + 1) % 4096 := by omega
    rw [State.readWord, State.readByte_writeByte, if_neg hne, State.readByte_writeByte, if_pos rfl,
      State.readByte_writeByte, if_pos rfl, Laws.wordOfBytes_bytes]
  case other => rw [State.readByte_writeByte, if_neg ha', State.readByte_writeByte, if_neg ha]

/-- Settles O28: each is a field of `State.resetWith`; the vectors hold one value in every place. -/
theorem resetSetsEveryRegister : Obligations.ResetSetsEveryRegister :=
  fun _ => ⟨fun r => Vector.getElem_replicate r.isLt, rfl, rfl, rfl, fun j => Vector.getElem_replicate j.isLt, rfl, rfl,
    fun _ => rfl, fun k => Vector.getElem_replicate k.isLt, rfl⟩

theorem State.readDisplay_getElem? (s : State) {k : Nat} (hk : k < 2048) : s.readDisplay[k]? = some (s.cell k) := by
  rw [State.readDisplay, List.getElem?_map, List.getElem?_range hk, Option.map_some]

/-- The keypad latch is named by no part of a frame: `SameBut` speaks of it on its own. -/
theorem State.setKey_same (s : State) (k : Vector Bool 16) (p : Part) : p.Same s (s.setKey k) := by
  cases p with
  | stack => exact ⟨rfl, rfl⟩
  | memory | display => exact fun _ => rfl
  | index | delay | sound | redraw | draws => exact rfl

/-- Settles O30: the two writes are single writes of the latch and of the flag; the reads answer the state they were
given. -/
theorem hostAccessTouchesOnlyItsLatch : Obligations.HostAccessTouchesOnlyItsLatch :=
  fun s k =>
    ⟨⟨_, rfl, rfl, rfl, rfl, rfl, fun _ _ => rfl, s.setKey_same k⟩,
      ⟨_, rfl, rfl, rfl, rfl, fun _ _ => rfl, s.setRedraw_sameBut_redraw false⟩,
      ⟨_, rfl, s.readDisplay_length, fun _ _ _ _ => s.readDisplay_getElem? (by omega)⟩, rfl, rfl⟩

end Sys2Proof.Machine
end

section
/-! SUPPORT. Which instructions write which register and which part of the state (the table of 10_state.md section 9), that
no execute phase and no step writes anything else, and the invariants that follow. -/

namespace Sys2Proof.Claims

open Sys2Proof.Machine

/-- The instructions that write a part. -/
def Part.Writer : Part → Instr → Prop
  | .index, i => (∃ nnn, i = .opANNN nnn) ∨ ∃ x, i = .opFX1E x ∨ i = .opFX29 x ∨ i = .opFX55 x ∨ i = .opFX65 x
  | .stack, i => i = .op00EE ∨ ∃ nnn, i = .op2NNN nnn
  | .memory, i => ∃ x, i = .opFX33 x ∨ i = .opFX55 x
  | .delay, i => ∃ x, i = .opFX15 x
  | .sound, i => ∃ x, i = .opFX18 x
  | .display, i | .redraw, i => i = .op00E0 ∨ ∃ x y n, i = .opDXYN x y n
  | .draws, i => ∃ x kk, i = .opCXKK x kk

/-- The registers that an instruction writes, VF among them where it is written as a flag (10_state.md R13). -/
def WritesReg : Instr → Idx → Prop
  | .op6XKK x _, r | .op7XKK x _, r | .op8XY0 x _, r | .op8XY1 x _, r | .op8XY2 x _, r | .op8XY3 x _, r
  | .opCXKK x _, r | .opFX07 x, r | .opFX0A x, r => r = x
  | .op8XY4 x _, r | .op8XY5 x _, r | .op8XY6 x _, r | .op8XY7 x _, r | .op8XYE x _, r => r = x ∨ r = 15
  | .opDXYN _ _ _, r | .opFX1E _, r => r = 15
  | .opFX65 x, r => r ≤ x
  | _, _ => False

/-- `t` is `s` but for what the instruction `i` writes. -/
structure ChangedBy (i : Instr) (s t : State) : Prop where
  regs : RegsBut (WritesReg i) s t
  parts : ∀ p : Part, ¬ p.Writer i → p.Same s t
  key : t.key = s.key
  font : t.font = s.font

theorem ChangedBy.of_sameBut {i : Instr} {s t : State} {ps : List Part} (hregs : RegsBut (WritesReg i) s t)
    (hframe : SameBut ps s t) (hps : ∀ p ∈ ps, p.Writer i) : ChangedBy i s t :=
  ⟨hregs, fun p hp => hframe.left p fun hmem => hp (hps p hmem), hframe.right.left, hframe.right.right⟩

end Sys2Proof.Claims

namespace Sys2Proof.Machine

open Sys2Proof.Claims

/-! The forms in which most execute phases end. -/

section
variable {i : Instr} {s : State}

theorem exec_changedBy_of_skipIf {c : Bool} (hexec : exec i s = complete (s.skipIf c)) :
    ∃ t, exec i s = .next t ∧ ChangedBy i s t := by
  obtain ⟨t, ht, -, -, hregs, hframe⟩ := s.skipIf_completes (c := c) Iff.rfl
  exact ⟨t, hexec.trans ht, .of_sameBut (fun r _ => hregs r not_false) hframe (by simp)⟩

theorem exec_changedBy_of_setReg {x : Idx} {b : Byte} (hexec : exec i s = complete (s.setReg x b).toNext)
    (hx : WritesReg i x) : ∃ t, exec i s = .next t ∧ ChangedBy i s t := by
  obtain ⟨t, ht, -, -, -, hregs, hframe⟩ := s.setReg_completes x b
  refine ⟨t, hexec.trans ht, .of_sameBut (fun r hr => hregs r ?_) hframe (by simp)⟩
  rintro rfl
  exact hr hx

theorem exec_changedBy_of_setFlag_setReg {f : Byte} {x : Idx} {b : Byte}
    (hexec : exec i s = complete ((s.setFlag f).setReg x b).toNext) (hx : WritesReg i x) (hflag : WritesReg i 15) :
    ∃ t, exec i s = .next t ∧ ChangedBy i s t := by
  obtain ⟨t, ht, -, -, -, -, hregs, hframe⟩ := s.setFlag_setReg_completes f x b
  refine ⟨t, hexec.trans ht, .of_sameBut (fun r hr => hregs r ?_) hframe (by simp)⟩
  rintro (rfl | rfl)
  · exact hr hx
  · exact hr hflag

end

/-! The execute phases that write the stack or wait, where they complete and where they do not. -/

theorem exec00EE_changedBy (s : State) : ∃ t, exec .op00EE s = .next t ∧ ChangedBy .op00EE s t := by
  obtain hsp | ⟨n, hn⟩ := Fin.eq_zero_or_eq_succ s.sp
  · obtain ⟨t, ht, -, -, hregs, hframe⟩ := stackConditionsChangeNothing.right s (congrArg Fin.val hsp)
    exact ⟨t, ht, .of_sameBut hregs hframe (by simp)⟩
  · obtain ⟨t, ht, -, -, -, -, hregs, hframe⟩ := returnPopsSavedAddress s n (congrArg Fin.val hn)
    exact ⟨t, ht, .of_sameBut hregs hframe (by simp [Part.Writer])⟩

theorem exec2NNN_changedBy (nnn : BitVec 12) (s : State) :
    ∃ t, exec (.op2NNN nnn) s = .next t ∧ ChangedBy (.op2NNN nnn) s t := by
  obtain ⟨n, hn⟩ | hsp := Fin.eq_castSucc_or_eq_last s.sp
  · obtain ⟨t, ht, -, -, -, -, -, hregs, hframe⟩ := callPushesItsOwnAddress s nnn n (congrArg Fin.val hn)
    exact ⟨t, ht, .of_sameBut hregs hframe (by simp [Part.Writer])⟩
  · obtain ⟨t, ht, -, -, hregs, hframe⟩ := stackConditionsChangeNothing.left s nnn (congrArg Fin.val hsp)
    exact ⟨t, ht, .of_sameBut hregs hframe (by simp)⟩

theorem execFX0A_changedBy (x : Idx) (s : State) :
    ∃ t, exec (.opFX0A x) s = .next t ∧ ChangedBy (.opFX0A x) s t := by
  cases h : highestKey s.key 16 with
  | some k => exact exec_changedBy_of_setReg (execFX0A_of_highestKey_eq_some x h) rfl
  | none =>
    exact ⟨_, execFX0A_of_highestKey_eq_none x h, .of_sameBut (fun _ _ => rfl) (s.setOutcome_sameBut .ok) (by simp)⟩

/-- An execute phase writes what its instruction is said to write, and nothing else. -/
theorem exec_changedBy (i : Instr) (s : State) : ∃ t, exec i s = .next t ∧ ChangedBy i s t := by
  cases i with
  | op00EE => exact exec00EE_changedBy s
  | op2NNN nnn => exact exec2NNN_changedBy nnn s
  | opFX0A x => exact execFX0A_changedBy x s
  | op3XKK | op4XKK | op5XY0 | op9XY0 | opEX9E | opEXA1 => exact exec_changedBy_of_skipIf rfl
  | op6XKK | op7XKK | op8XY0 | op8XY1 | op8XY2 | op8XY3 | opFX07 => exact exec_changedBy_of_setReg rfl rfl
  | op8XY4 | op8XY5 | op8XY6 | op8XY7 | op8XYE =>
    exact exec_changedBy_of_setFlag_setReg rfl (.inl rfl) (.inr rfl)
  | op00E0 =>
    obtain ⟨t, ht, -, -, -, -, hregs, hframe⟩ := clearTurnsEveryPixelOff s
    exact ⟨t, ht, .of_sameBut hregs hframe (by simp [Part.Writer])⟩
  | op1NNN nnn =>
    obtain ⟨t, ht, -, -, hregs, hframe⟩ := jumpGoesToAddress s nnn
    exact ⟨t, ht, .of_sameBut hregs hframe (by simp)⟩
  | opBNNN nnn =>
    obtain ⟨t, ht, -, -, hregs, hframe⟩ := indexedJumpAddsRegisterZero s nnn
    exact ⟨t, ht, .of_sameBut hregs hframe (by simp)⟩
  | opANNN nnn =>
    obtain ⟨t, ht, -, -, -, hregs, hframe⟩ := loadIndexSetsIndex s nnn
    exact ⟨t, ht, .of_sameBut hregs hframe (by simp [Part.Writer])⟩
  | opCXKK x kk =>
    obtain ⟨t, ht, -, -, -, -, -, hregs, hframe⟩ := randomIsMaskedDraw s x kk
    exact ⟨t, ht, .of_sameBut hregs hframe (by simp [Part.Writer])⟩
  | opDXYN x y n =>
    obtain ⟨t, ht, -, -, -, -, -, -, -, hregs, hframe⟩ := drawTogglesExactlyTouchedPixels s x y n
    exact ⟨t, ht, .of_sameBut hregs hframe (by simp [Part.Writer])⟩
  | opFX15 x =>
    obtain ⟨⟨t, ht, -, -, -, hregs, hframe⟩, -⟩ := timerWritesLoseOneInTheSameStep s x
    exact ⟨t, ht, .of_sameBut hregs hframe (by simp [Part.Writer])⟩
  | opFX18 x =>
    obtain ⟨-, ⟨t, ht, -, -, -, hregs, hframe⟩, -⟩ := timerWritesLoseOneInTheSameStep s x
    exact ⟨t, ht, .of_sameBut hregs hframe (by simp [Part.Writer])⟩
  | opFX1E x =>
    obtain ⟨t, ht, -, -, hregs, hframe, -⟩ := addToIndexFlagsEndOfMemory s x
    exact ⟨t, ht, .of_sameBut hregs hframe (by simp [Part.Writer])⟩
  | opFX29 x =>
    obtain ⟨t, ht, -, -, -, -, hregs, hframe⟩ := glyphAddressIsFiveTimesDigit s x
    exact ⟨t, ht, .of_sameBut hregs hframe (by simp [Part.Writer])⟩
  | opFX33 x =>
    obtain ⟨t, ht, -, -, -, -, -, -, -, -, -, hregs, hframe⟩ := storeDecimalDigits s x
    exact ⟨t, ht, .of_sameBut hregs hframe (by simp [Part.Writer])⟩
  | opFX55 x =>
    obtain ⟨t, ht, -, -, -, -, -, -, hregs, hframe⟩ := storeRegistersFromIndex s x
    exact ⟨t, ht, .of_sameBut hregs hframe (by simp [Part.Writer])⟩
  | opFX65 x =>
    obtain ⟨t, ht, -, -, -, hregs, -, hframe⟩ := loadRegistersFromIndex s x
    exact ⟨t, ht, .of_sameBut hregs hframe (by simp [Part.Writer])⟩

/-! From the execute phase to the step. -/

/-- The word at `pc` selects no instruction of `P`. -/
def State.FetchesNone (s : State) (P : Instr → Prop) : Prop := ∀ i, decodeWord s.fetch = .ok i → ¬ P i

/-- Settles O8: every execute phase answers a next state, and so does the rule of an unrecognised word. -/
theorem stepAlwaysAnswersNextState : Obligations.StepAlwaysAnswersNextState := by
  intro s
  cases hdecode : decodeWord s.fetch with
  | ok i =>
    obtain ⟨m, hexec⟩ := exec_next i s
    exact ⟨_, step_of_exec hdecode hexec⟩
  | error e => exact ⟨_, step_of_unknown hdecode⟩

section
variable {s t m : State} {i : Instr} (hstep : step s = .next t)
include hstep

theorem eq_tick_of_step (hdecode : decodeWord s.fetch = .ok i) (hexec : exec i s = .next m) : t = m.tick :=
  Host.Outcome.next.inj (hstep.symm.trans (step_of_exec hdecode hexec))

/-- A step is the tick of a state that differs from the first by what the fetched instruction writes. -/
theorem exists_tick_of_step :
    ∃ m : State, t = m.tick ∧ RegsBut (fun r => ¬ s.FetchesNone (WritesReg · r)) s m ∧
      (∀ p : Part, s.FetchesNone p.Writer → p.Same s m) ∧ m.key = s.key ∧ m.font = s.font := by
  obtain ⟨i, m, hdecode, hexec, rfl⟩ | ⟨e, -, rfl⟩ := step_cases hstep
  · obtain ⟨m', hexec', hchanged⟩ := exec_changedBy i s
    cases hexec.symm.trans hexec'
    exact ⟨m, rfl, fun r hr => hchanged.regs r (not_not.mp hr i hdecode), fun p hp => hchanged.parts p (hp i hdecode),
      hchanged.key, hchanged.font⟩
  · obtain ⟨hparts, hkey, hfont⟩ :=
      s.setPc_setOutcome_sameBut (s.pc + 2) (.unknownInstruction s.fetch s.pc)
    exact ⟨_, rfl, fun _ _ => rfl, fun p _ => hparts p List.not_mem_nil, hkey, hfont⟩

/-- The tick writes the timers only. -/
theorem same_of_step {p : Part} (htimers : p ∉ [Part.delay, .sound]) (hp : s.FetchesNone p.Writer) : p.Same s t := by
  obtain ⟨m, rfl, -, hparts, -, -⟩ := exists_tick_of_step hstep
  obtain ⟨htick, -, -⟩ := m.tick_sameBut_timers
  exact (hparts p hp).trans (htick p htimers)

theorem reg_of_step {r : Idx} (hr : s.FetchesNone (WritesReg · r)) : t.reg r = s.reg r := by
  obtain ⟨m, rfl, hregs, -, -, -⟩ := exists_tick_of_step hstep
  exact (m.tick_sameRegs r not_false).trans (hregs r (not_not.mpr hr))

end

/-! The invariants over all steps. -/

/-- Settles O10: a step that does not write a timer ticks the value it found. -/
theorem timersCountInEveryStep : Obligations.TimersCountInEveryStep := by
  intro s t hstep
  obtain ⟨m, rfl, -, hparts, -, -⟩ := exists_tick_of_step hstep
  obtain ⟨hdt, hst, -⟩ := tickCountsTimersDown m
  refine ⟨fun hno => ?delay, fun hno => ?sound⟩
  case delay =>
    have hkept : m.dt = s.dt := hparts .delay (by rintro i hi ⟨x, rfl⟩; exact hno x hi)
    rw [hdt, hkept]
  case sound =>
    have hkept : m.st = s.st := hparts .sound (by rintro i hi ⟨x, rfl⟩; exact hno x hi)
    rw [hst, hkept]

/-- A return keeps the entries, the popped one included (10_state.md R16). -/
theorem stack_of_exec00EE (s : State) : ∃ t, exec .op00EE s = .next t ∧ t.stack = s.stack := by
  obtain hsp | ⟨n, hn⟩ := Fin.eq_zero_or_eq_succ s.sp
  · exact ⟨_, exec00EE_of_sp_eq_zero (congrArg Fin.val hsp), rfl⟩
  · exact ⟨_, exec00EE_of_sp_eq_succ hn, rfl⟩

/-- Settles O11: the call and the return are the writers of the stack, and of these the return writes sp only. -/
theorem onlyCallWritesStack : Obligations.OnlyCallWritesStack := by
  intro s t hstep hcall
  by_cases hreturn : decodeWord s.fetch = .ok .op00EE
  · obtain ⟨m, hexec, hstack⟩ := stack_of_exec00EE s
    obtain rfl := eq_tick_of_step hstep hreturn hexec
    exact ⟨hstack, fun hne => absurd hreturn hne⟩
  · obtain ⟨hstack, hsp⟩ : Part.stack.Same s t := same_of_step hstep (by decide) <| by
      rintro i hi (rfl | ⟨nnn, rfl⟩)
      · exact hreturn hi
      · exact hcall nnn hi
    exact ⟨hstack, fun _ => hsp⟩

/-- Settles O12: the latch and FONT are in every frame. -/
theorem stepNeverWritesKeypad : Obligations.StepNeverWritesKeypad := by
  intro s t hstep
  obtain ⟨m, rfl, -, -, hkey, hfont⟩ := exists_tick_of_step hstep
  exact ⟨hkey, hfont⟩

/-- Settles O13: the two drawing instructions set the flag, and they are its writers. -/
theorem redrawSetExactlyByDrawing : Obligations.RedrawSetExactlyByDrawing := by
  intro s t hstep
  refine ⟨?draws, fun hno => ?other⟩
  case draws =>
    rintro (hdecode | ⟨x, y, n, hdecode⟩)
    · obtain ⟨m, hexec, -, -, hredraw, -⟩ := clearTurnsEveryPixelOff s
      obtain rfl := eq_tick_of_step hstep hdecode hexec
      exact hredraw
    · obtain ⟨m, hexec, -, -, -, -, -, -, hredraw, -⟩ := drawTogglesExactlyTouchedPixels s x y n
      obtain rfl := eq_tick_of_step hstep hdecode hexec
      exact hredraw
  case other =>
    refine same_of_step (p := .redraw) hstep (by decide) ?_
    rintro i hi (rfl | ⟨x, y, n, rfl⟩)
    · exact hno (.inl hi)
    · exact hno (.inr ⟨x, y, n, hi⟩)

/-- Settles O14: 00E0 and DXYN are the writers of the display. -/
theorem onlyDrawingWritesDisplay : Obligations.OnlyDrawingWritesDisplay := by
  intro s t hstep hclear hdraw
  refine same_of_step (p := .display) hstep (by decide) ?_
  rintro i hi (rfl | ⟨x, y, n, rfl⟩)
  · exact hclear hi
  · exact hdraw x y n hi

/-- Settles O15: FX33 and FX55 are the writers of memory. -/
theorem onlyStoresWriteMemory : Obligations.OnlyStoresWriteMemory := by
  intro s t hstep hdigits hregs
  refine same_of_step (p := .memory) hstep (by decide) ?_
  rintro i hi ⟨x, rfl | rfl⟩
  · exact hdigits x hi
  · exact hregs x hi

/-- Settles O16: ANNN and the four forms of class F are the writers of `I`. -/
theorem onlyIndexInstructionsWriteIndex : Obligations.OnlyIndexInstructionsWriteIndex := by
  intro s t hstep hload hother
  refine same_of_step (p := .index) hstep (by decide) ?_
  rintro i hi (⟨nnn, rfl⟩ | ⟨x, hx⟩)
  · exact hload nnn hi
  · obtain ⟨hadd, hglyph, hstores, hloads⟩ := hother x
    obtain rfl | rfl | rfl | rfl := hx
    · exact hadd hi
    · exact hglyph hi
    · exact hstores hi
    · exact hloads hi

/-- Settles O17: an instruction that writes VF writes it as a flag, or as the register X. -/
theorem flagWrittenOnlyByItsInstructions : Obligations.FlagWrittenOnlyByItsInstructions := by
  intro s t hstep hflag hplain
  refine reg_of_step hstep fun i hi hwrites => ?_
  cases i with simp only [WritesReg] at hwrites
  | op8XY4 x y | op8XY5 x y | op8XY6 x y | op8XY7 x y | op8XYE x y => exact hflag x y 0 _ (by simp) hi
  | opDXYN x y n => exact hflag x y n _ (by simp) hi
  | opFX1E x => exact hflag x 0 0 _ (by simp) hi
  | op6XKK x kk | op7XKK x kk | opCXKK x kk =>
    subst hwrites
    exact hplain 0 kk _ (by simp) hi
  | op8XY0 x y | op8XY1 x y | op8XY2 x y | op8XY3 x y =>
    subst hwrites
    exact hplain y 0 _ (by simp) hi
  | opFX07 x | opFX0A x =>
    subst hwrites
    exact hplain 0 0 _ (by simp) hi
  | opFX65 x =>
    obtain rfl : x = 15 := le_antisymm (Fin.le_last x) hwrites
    exact hplain 0 0 _ (by simp) hi

/-- Settles O18: CXKK takes one draw, and it is the writer of the count. -/
theorem randomTakesOneDraw : Obligations.RandomTakesOneDraw := by
  intro s t hstep
  refine ⟨?random, fun hno => ?other⟩
  case random =>
    rintro ⟨x, kk, hdecode⟩
    obtain ⟨m, hexec, -, -, -, -, hdraws, -⟩ := randomIsMaskedDraw s x kk
    obtain rfl := eq_tick_of_step hstep hdecode hexec
    exact hdraws
  case other =>
    refine same_of_step (p := .draws) hstep (by decide) ?_
    rintro i hi ⟨x, kk, rfl⟩
    exact hno x kk hi

end Sys2Proof.Machine
end

section
/-! SUPPORT. Runs that go no further: a stack condition is raised again by the next step (60_exceptions.md R203), and a jump
to itself is at the end of a run again (70_reset_and_hazards.md R246). -/

namespace Sys2Proof.Machine

open Sys2Proof.Claims

/-- An execute phase that raises a condition changes no part that a frame names, so a step of it changes the timers only. -/
theorem step_of_raise {s : State} {i : Instr} {c : StepOutcome} (hdecode : decodeWord s.fetch = .ok i)
    (hexec : exec i s = raise c s) :
    ∃ u, step s = .next u ∧ u.outcome = c ∧ u.pc = s.pc ∧ SameRegs s u ∧ SameBut [.delay, .sound] s u :=
  ⟨(s.setOutcome c).tick, step_of_exec hdecode hexec, rfl, rfl, fun _ _ => rfl,
    ((s.setOutcome_sameBut c).mono (List.nil_subset _)).trans (s.setOutcome c).tick_sameBut_timers⟩

/-- The fetch reads `pc` and memory only (40_step_cycle.md R81). -/
theorem fetch_of_sameBut {ps : List Part} {s t : State} (hpc : t.pc = s.pc) (hframe : SameBut ps s t)
    (hmem : Part.memory ∉ ps) : t.fetch = s.fetch := by
  have hread := readByte_of_sameBut hframe hmem
  rw [State.fetch, State.fetch, hpc, State.readWord, State.readWord, hread, hread]

theorem State.safe_of_outcome_eq_ok {s : State} (h : s.outcome = .ok) : s.Safe := by
  rw [State.Safe, State.stackFault, h]

/-- Where a step ends in a stack condition, its instruction raised it. -/
theorem exists_raise_of_not_safe {s t : State} (hstep : step s = .next t) (hfault : ¬ t.Safe) :
    (∃ nnn, decodeWord s.fetch = .ok (.op2NNN nnn) ∧ s.sp.val = 16) ∨
      (decodeWord s.fetch = .ok .op00EE ∧ s.sp.val = 0) := by
  have hcause := outcomeNamesItsCause s t hstep
  split at hcause
  next e he => exact absurd (by rw [State.Safe, State.stackFault, hcause]) hfault
  next i hi =>
    obtain ⟨-, ⟨nnn, rfl⟩, hsp⟩ | ⟨-, rfl, hsp⟩ | ⟨hok, -, -⟩ := hcause
    · exact .inl ⟨nnn, hi, hsp⟩
    · exact .inr ⟨hi, hsp⟩
    · exact absurd (State.safe_of_outcome_eq_ok hok) hfault

/-- A raised condition leaves `pc`, memory and `sp` as they were, so the next step fetches the same instruction; where that
instruction then raises the same condition, the step changes the timers only. -/
theorem raise_repeats {s t : State} {i : Instr} {c : StepOutcome} (hdecode : decodeWord s.fetch = .ok i)
    (hexec : exec i s = raise c s) (hstep : step s = .next t)
    (hagain : t.sp = s.sp → t.pc = s.pc → exec i t = raise c t) :
    ∃ u, step t = .next u ∧ u.outcome = t.outcome ∧ u.pc = t.pc ∧ SameRegs t u ∧ SameBut [.delay, .sound] t u := by
  obtain ⟨t', hstep', hout, hpc, -, hframe⟩ := step_of_raise hdecode hexec
  cases hstep.symm.trans hstep'
  obtain ⟨-, hsp⟩ : Part.stack.Same s t := hframe.left .stack (by decide)
  rw [← fetch_of_sameBut hpc hframe (by decide)] at hdecode
  rw [hout]
  exact step_of_raise hdecode (hagain hsp hpc)

/-- Settles O20: the step keeps `pc`, memory and `sp`, so the next one fetches the same instruction and raises the same
condition at the same address. -/
theorem stackFaultRepeatsForEver : Obligations.StackFaultRepeatsForEver := by
  intro s t hstep hfault
  obtain ⟨nnn, hdecode, hsp⟩ | ⟨hdecode, hsp⟩ := exists_raise_of_not_safe hstep hfault
  · exact raise_repeats hdecode (exec2NNN_of_sp_eq_sixteen nnn hsp) hstep fun hsp' hpc =>
      hpc ▸ exec2NNN_of_sp_eq_sixteen nnn (hsp' ▸ hsp)
  · exact raise_repeats hdecode (exec00EE_of_sp_eq_zero hsp) hstep fun hsp' hpc =>
      hpc ▸ exec00EE_of_sp_eq_zero (hsp' ▸ hsp)

/-- An address within memory is the zero extension of its low 12 bits. -/
theorem zext12_setWidth {a : Addr} (h : a.toNat ≤ 0xFFF) : zext12 (a.setWidth 12) = a := by
  apply BitVec.eq_of_toNat_eq
  rw [zext12_toNat, BitVec.toNat_setWidth]
  omega

/-- Settles O21: the jump writes the `pc` it finds, so the next fetch is of the same word, and the outcome is OK. -/
theorem selfJumpEndsRun : Obligations.SelfJumpEndsRun := by
  rintro s ⟨hpc, hdecode, -⟩
  obtain ⟨m, hexec, hok, hjump, hregs, hframe⟩ := jumpGoesToAddress s (s.pc.setWidth 12)
  obtain ⟨hdt, hst, hpc', hok', hregs', hframe'⟩ := tickCountsTimersDown m
  have hsame : m.tick.pc = s.pc := by
    rw [hpc', ← zext12_setWidth hpc]
    exact BitVec.eq_of_toNat_eq (hjump.trans (zext12_toNat _).symm)
  have htotal : SameBut [.delay, .sound] s m.tick := (hframe.mono (List.nil_subset _)).trans hframe'
  have hfetch : m.tick.fetch = s.fetch := fetch_of_sameBut hsame htotal (by decide)
  have hdelay : m.dt = s.dt := hframe.left .delay List.not_mem_nil
  have hsound : m.st = s.st := hframe.left .sound List.not_mem_nil
  exact ⟨m.tick, step_of_exec hdecode hexec, ⟨hsame ▸ hpc, by rw [hfetch, hsame, hdecode],
    State.safe_of_outcome_eq_ok (hok'.trans hok)⟩, hsame, fun r hr => (hregs' r hr).trans (hregs r hr), htotal,
    by rw [hdt, hdelay], by rw [hst, hsound]⟩

end Sys2Proof.Machine
end

section
/-! SUPPORT. A sprite drawn twice (44_display.md R162, 95_test_vectors.md S5). -/

namespace Sys2Proof.Machine

open Sys2Proof.Claims

/-- The cells a sprite touches depend on its two origin registers, on `I` and on memory only. -/
theorem touches_congr {ps : List Part} {s t : State} {x y : Idx} (hx : t.reg x = s.reg x) (hy : t.reg y = s.reg y)
    (hframe : SameBut ps s t) (hindex : Part.index ∉ ps) (hmem : Part.memory ∉ ps) (n px py : Nat) :
    Touches t x y n px py ↔ Touches s x y n px py := by
  have hi : t.i = s.i := hframe.left .index hindex
  have hread := readByte_of_sameBut hframe hmem
  simp only [Touches, hx, hy, hi, hread]

theorem xor_one_xor_one (b : Byte) : b ^^^ 1 ^^^ 1 = b := by
  rw [BitVec.xor_assoc, BitVec.xor_self, BitVec.xor_zero]

/-- Settles O53: the first draw changes neither register of the origin, nor `I`, nor memory, so the second touches the same
cells and toggles each of them back; on a clear display the first turned them on. -/
theorem drawTwiceErases : Obligations.DrawTwiceErases := by
  intro s t u x y n hx hy hst htu
  obtain ⟨t', hst', -, -, hcells, hout, -, hmiss, -, hregs, hframe⟩ := drawTogglesExactlyTouchedPixels s x y n
  obtain ⟨u', htu', -, -, hcells', hout', hhit', -, -, -, -⟩ := drawTogglesExactlyTouchedPixels t x y n
  cases hst.symm.trans hst'
  cases htu.symm.trans htu'
  have htouches := touches_congr (hregs x hx) (hregs y hy) hframe (by decide) (by decide) n.val
  refine ⟨fun k => ?erased, fun hclear htouched => ⟨?first, ?second⟩⟩
  case erased =>
    obtain hk | hk := lt_or_ge k 2048
    · obtain ⟨px, hpx, py, hpy, rfl⟩ : ∃ px < 64, ∃ py < 32, k = py * 64 + px :=
        ⟨k % 64, by omega, k / 64, by omega, by omega⟩
      obtain ⟨hon, hoff⟩ := hcells px hpx py hpy
      obtain ⟨hon', hoff'⟩ := hcells' px hpx py hpy
      by_cases htouch : Touches s x y n.val px py
      · rw [hon' ((htouches px py).mpr htouch), hon htouch, xor_one_xor_one]
      · rw [hoff' (mt (htouches px py).mp htouch), hoff htouch]
    · rw [hout' k hk, hout k hk]
  case first => exact hmiss fun px _ py _ _ => hclear _
  case second =>
    obtain ⟨px, hpx, py, hpy, htouch⟩ := htouched
    refine hhit' ⟨px, hpx, py, hpy, (htouches px py).mpr htouch, ?_⟩
    rw [(hcells px hpx py hpy).left htouch, hclear]
    decide

end Sys2Proof.Machine
end
